-- ==== Sys2Proof/Word.lean ====
section
/-! DEFINITION. The bit vectors of the block: bytes, bus words, 1024-bit registers (00_scope.md R9, R10). -/

namespace Sys2Proof

/-- A byte, an element of 0..255 (R9). -/
abbrev Byte := BitVec 8

/-- A bus or command word, an element of 0..2^32-1 (R9). -/
abbrev Word := BitVec 32

/-- A big-integer register: an element of the naturals below 2^1024 (R11). -/
abbrev Big := BitVec 1024

end Sys2Proof
end

