-- ==== Sys2Proof/Config.lean ====
section
/-! DEFINITION. The parameters of the block: the constants 00_scope.md R6 and R7 fix and the launch's parameters of R8. -/

namespace Sys2Proof

/-- HEX_LEN: the exact number of hex digits of an input (R6). -/
@[simp] def hexLen : Nat := 1440

/-- INPUT_LEN: ciphertext bytes (R6). -/
@[simp] def inputLen : Nat := 720

/-- HEADER_LEN: the unexamined bytes before block 0 (R6). -/
@[simp] def headerLen : Nat := 6

/-- BLOCK_SIZE in bytes (R6). -/
@[simp] def blockSize : Nat := 128

/-- BLOCK_COUNT (R6). -/
@[simp] def blockCount : Nat := 5

/-- PT_SIZE: plaintext bytes (R6). -/
@[simp] def ptSize : Nat := 640

/-- TRAILER_LEN, the bytes after the last block (R7, 90_conflicts.md C1). -/
@[simp] def trailerLen : Nat := 74

/-- FIELD_SLOTS (R8). -/
@[simp] def fieldSlots : Nat := 32

/-- FIELD_MAX_WIDTH in bytes (R8). -/
@[simp] def fieldMaxWidth : Nat := 64

/-- The greatest KEY_SLOTS a launch may choose (R8). -/
@[simp] def maxKeySlots : Nat := 8

/-- DEVICE_ID (R8): the bytes "SADL", 'S' uppermost (10_state.md R22). -/
@[simp] def deviceId : Word := 0x5341444C#32

/-- The size of the register window in bytes (20_memory.md R63). -/
@[simp] def windowSize : Nat := 0x5000

/-- The launch's parameters that stay fixed while the block runs (R8, 10_state.md R48).
The other OPEN items of R8, keys and field table, are loaded by the host into State. -/
structure Config where
  /-- KEY_SLOTS: how many key slots exist. -/
  keySlots : Nat
  /-- BASE: the bus address of offset 0 of the window. -/
  base : Nat
deriving DecidableEq, Repr

/-- R8: 1 ≤ KEY_SLOTS ≤ 8. -/
def Config.wf (c : Config) : Bool := decide (1 ≤ c.keySlots) && decide (c.keySlots ≤ maxKeySlots)

/-- The reference launch: KEY_SLOTS = 1 (R8). BASE is OPEN; 0 stands here. DESIGN CHOICE, unsafe, log 1. -/
def Config.reference : Config := { keySlots := 1, base := 0 }

end Sys2Proof
end

