-- ==== Sys2Proof/Syntax.lean ====
section
/-! DEFINITION. The commands of the block, one constructor per row of the opcode table (30_encoding.md R93). -/

namespace Sys2Proof

/-- A command. -/
inductive Instr where
  /-- NOP: no operation (40_input_normalizer.md R122). -/
  | nop
  /-- CLEAR_INPUT: begin a new ciphertext (R123). -/
  | clearInput
  /-- PUSH_HEX c: push one byte of the hex text (R124). -/
  | pushHex (c : Byte)
  /-- MODPOW: modular exponentiation on the operand registers (41_block_cryptor.md R145). -/
  | modpow
  /-- DECRYPT k: decrypt the ciphertext with key slot k (R147). -/
  | decrypt (k : Byte)
  /-- DECODE: decode the plaintext into the record (42_record_decoder.md R186). -/
  | decode
  /-- DECRYPT_DECODE k: decrypt, then decode (43_sequencing.md R210). -/
  | decryptDecode (k : Byte)
deriving DecidableEq, Repr

end Sys2Proof
end

