-- ==== Sys2Proof/WellFormed.lean ====
section
/-! DEFINITION. The legality conditions of commands (30_encoding.md R92, R93). -/

namespace Sys2Proof

/-- The legality column of R93 under a launch with `keySlots` slots: a key slot index names an existing slot. -/
def Instr.wf (keySlots : Nat) : Instr → Bool
  | .nop => true
  | .clearInput => true
  | .pushHex _ => true
  | .modpow => true
  | .decrypt k => decide (k.toNat < keySlots)
  | .decode => true
  | .decryptDecode k => decide (k.toNat < keySlots)

end Sys2Proof
end

