-- ==== Sys2Proof/Decode.lean ====
section
/-! DEFINITION. The command decoder (30_encoding.md R94), total on 32-bit words, and the encoder after it. -/

namespace Sys2Proof

/-- OPC, bits [7:0] (R91). -/
def opcOf (w : Word) : Byte := w.extractLsb' 0 8

/-- ARG, bits [15:8] (R91). -/
def argOf (w : Word) : Byte := w.extractLsb' 8 8

/-- RSV, bits [31:16] (R91). -/
def rsvOf (w : Word) : BitVec 16 := w.extractLsb' 16 16

/-- Why a word is illegal: the four causes of R95. -/
inductive IllegalWord where
  /-- RSV is not 0. -/
  | reservedBits
  /-- OPC is none of the seven assigned values. -/
  | unassignedOpcode
  /-- ARG is not 0 for NOP, CLEAR_INPUT, MODPOW or DECODE. -/
  | argNotZero
  /-- k ≥ KEY_SLOTS for DECRYPT or DECRYPT_DECODE. -/
  | keySlotOutOfRange
deriving DecidableEq, Repr

/-- The decoder's answer: a command, or Illegal with its cause (R94). -/
inductive Decoded where
  | command (i : Instr)
  | illegal (why : IllegalWord)
deriving DecidableEq, Repr

/-- A command whose ARG must be 0x00 (R92). -/
def noArg (arg : Byte) (i : Instr) : Decoded :=
  if arg = 0#8 then .command i else .illegal .argNotZero

/-- A command whose ARG is a key slot index, legal iff k < KEY_SLOTS (R92). -/
def keyArg (keySlots : Nat) (arg : Byte) (i : Instr) : Decoded :=
  if arg.toNat < keySlots then .command i else .illegal .keySlotOutOfRange

/-- `decode` of R94. It depends on the word and KEY_SLOTS alone. -/
def decode (keySlots : Nat) (w : Word) : Decoded :=
  if rsvOf w ≠ 0#16 then .illegal .reservedBits
  else if opcOf w = 0x00#8 then noArg (argOf w) .nop
  else if opcOf w = 0x01#8 then noArg (argOf w) .clearInput
  else if opcOf w = 0x02#8 then .command (.pushHex (argOf w))
  else if opcOf w = 0x10#8 then noArg (argOf w) .modpow
  else if opcOf w = 0x11#8 then keyArg keySlots (argOf w) (.decrypt (argOf w))
  else if opcOf w = 0x20#8 then noArg (argOf w) .decode
  else if opcOf w = 0x30#8 then keyArg keySlots (argOf w) (.decryptDecode (argOf w))
  else .illegal .unassignedOpcode

/-- The word with a given ARG and OPC and RSV = 0 (R91). -/
def cmd32 (arg opc : Byte) : Word := 0#16 ++ arg ++ opc

/-- The command's word (R93, R96). -/
def encode : Instr → Word
  | .nop => cmd32 0x00#8 0x00#8
  | .clearInput => cmd32 0x00#8 0x01#8
  | .pushHex c => cmd32 c 0x02#8
  | .modpow => cmd32 0x00#8 0x10#8
  | .decrypt k => cmd32 k 0x11#8
  | .decode => cmd32 0x00#8 0x20#8
  | .decryptDecode k => cmd32 k 0x30#8

/-- One row of the command table of R93: a word selects it when `w &&& mask = matchWord`. -/
structure TableRow where
  mnemonic : String
  matchWord : Word
  mask : Word
deriving DecidableEq, Repr

/-- The table of R93, in its order. -/
def commandTable : List TableRow :=
  [ { mnemonic := "NOP", matchWord := 0x00000000#32, mask := 0xFFFFFFFF#32 },
    { mnemonic := "CLEAR_INPUT", matchWord := 0x00000001#32, mask := 0xFFFFFFFF#32 },
    { mnemonic := "PUSH_HEX", matchWord := 0x00000002#32, mask := 0xFFFF00FF#32 },
    { mnemonic := "MODPOW", matchWord := 0x00000010#32, mask := 0xFFFFFFFF#32 },
    { mnemonic := "DECRYPT", matchWord := 0x00000011#32, mask := 0xFFFF00FF#32 },
    { mnemonic := "DECODE", matchWord := 0x00000020#32, mask := 0xFFFFFFFF#32 },
    { mnemonic := "DECRYPT_DECODE", matchWord := 0x00000030#32, mask := 0xFFFF00FF#32 } ]

/-- Whether a word selects a row of the table (R93). -/
def TableRow.selects (r : TableRow) (w : Word) : Bool := w &&& r.mask == r.matchWord

/-- The mnemonic of a command (R93). -/
def mnemonicOf : Instr → String
  | .nop => "NOP"
  | .clearInput => "CLEAR_INPUT"
  | .pushHex _ => "PUSH_HEX"
  | .modpow => "MODPOW"
  | .decrypt _ => "DECRYPT"
  | .decode => "DECODE"
  | .decryptDecode _ => "DECRYPT_DECODE"

/-- The command of an answer, if it is one. -/
def Decoded.toOption : Decoded → Option Instr
  | .command i => some i
  | .illegal _ => none

/-- What the decoder reads, at the reference KEY_SLOTS, from an instruction given as a number of `nbits` bits.
Every command is one 32-bit word (R90), so a longer one, or a number that does not fit, is no command. -/
def decodeTableWord (nbits w : Nat) : Option Instr :=
  if nbits ≤ 32 ∧ w < 2 ^ nbits then (decode Config.reference.keySlots (BitVec.ofNat 32 w)).toOption
  else none

end Sys2Proof
end

