-- ==== Sys2Proof/Machine/State.lean ====
section
/-! DEFINITION. The state of the block as plain data (10_state.md R48) and its value after reset (70_reset_and_hazards.md R260). -/

namespace Sys2Proof.Machine

/-- STATUS.ERR, the outcome of the last completed command (10_state.md R26).
Codes 5, 6 and 7 are reserved and never written; the type has no value for them (log 12). -/
inductive ErrCode where
  /-- 0 NONE: completed without error, or no command completed since acceptance. -/
  | none
  /-- 1 INVALID_INPUT, the source's InvalidInputError. -/
  | invalidInput
  /-- 2 CRYPTO, the source's CryptoError. -/
  | crypto
  /-- 3 MALFORMED_RECORD, the source's MalformedRecordError. -/
  | malformedRecord
  /-- 4 ILLEGAL_COMMAND: a word outside the opcode table. -/
  | illegalCommand
deriving DecidableEq, Repr

/-- The fields of STATUS (10_state.md R24 to R28). -/
structure Status where
  /-- Bit 0: a command is accepted and not yet complete (R24; log 11). -/
  busy : Bool
  /-- Bit 1: a command has completed; write 1 to clear (R25). -/
  done : Bool
  /-- Bits [4:2] (R26). -/
  err : ErrCode
  /-- Bit 8: a host write was dropped because the block was busy; sticky, write 1 to clear (R27). -/
  overrun : Bool
  /-- Bit 9: a key write was dropped because of KEY_LOCK; sticky, write 1 to clear (R28). -/
  lockViolation : Bool
deriving DecidableEq, Repr

/-- The fields of CTRL (10_state.md R29, R30). -/
structure Ctrl where
  /-- Bit 0: enables the interrupt output (R29). -/
  irqEn : Bool
  /-- Bit 1: locks the key table until reset; write 1 to set (R30). -/
  keyLock : Bool
deriving DecidableEq, Repr

/-- One slot of the key table (10_state.md R33). -/
structure KeySlot where
  /-- VERSION_ID: for the host only. -/
  versionId : Word
  /-- MOD: the modulus n. -/
  modulus : Big
  /-- EXP: the public exponent e. -/
  exponent : Big
deriving DecidableEq, Repr

/-- One entry of the field table (10_state.md R41, R42). -/
structure FieldEntry where
  /-- OFFSET: the field's start byte in PT. -/
  offset : BitVec 16
  /-- WIDTH in bytes: exact for FIXED, the maximum for DELIM. -/
  width : Byte
  /-- TERM: the terminator byte of a DELIM field. -/
  term : Byte
  /-- FIELD_ID: the record field this slot fills (R43). -/
  fieldId : Byte
  /-- ELEM: the element index of a list field, for the host only. -/
  elem : BitVec 4
  /-- KIND: 0 TEXT, 1 NUMERIC, 2 DATE, 3 reserved. -/
  kind : BitVec 2
  /-- RULE: false FIXED, true DELIM. -/
  rule : Bool
  /-- EN: the slot is decoded. -/
  en : Bool
deriving DecidableEq, Repr

/-- The output of one field slot (10_state.md R44, R48). -/
structure FieldValue where
  /-- LEN: the length of the value in bytes, 0 to 64. -/
  len : Fin 65
  /-- DATA: the value, then zero bytes. -/
  data : Vector Byte 64
deriving DecidableEq, Repr

/-- The byte buffers of the window, CT and PT, as (window offset, byte) pairs.
An offset with no pair reads as 0x00, the reset value the spec gives both buffers (10_state.md R36, R37; log 10). -/
structure Memory where
  cells : List Host.Cell
deriving DecidableEq, Repr

/-- The widths a host access can have on the bus (20_memory.md R64). -/
inductive AccessSize where
  | w8
  | w16
  | w32
  | w64
deriving DecidableEq, Repr

/-- One step of the interleaving of 20_memory.md R69, or an assertion of the reset input (addresses: log 18; the value of a
write that is not 32-bit: log 20; one host port: log 19). -/
inductive Event where
  /-- A host read at a bus address. -/
  | read (size : AccessSize) (addr : Nat)
  /-- A host write at a bus address. -/
  | write (size : AccessSize) (addr : Nat) (v : Word)
  /-- The reset input is asserted (70_reset_and_hazards.md R260). -/
  | reset
  /-- The engine takes its step, the completion of PENDING (60_exceptions.md R222). -/
  | engine
deriving DecidableEq, Repr

/-- What the host port answers to an access (20_memory.md R64). A write returns no data. -/
structure Response where
  busError : Bool
  data : Option Word
deriving DecidableEq, Repr

/-- Why the model stops. The block itself never stops (60_exceptions.md R223, R233). -/
inductive Fault where
  /-- Raised by a host access to a bus address outside the window, which the block does not decode
  (20_memory.md R63). Safe: the spec says nothing of such an access, log 7. -/
  | outsideWindow
deriving DecidableEq, Repr

/-- Why the model has no meaning for an instruction. -/
inductive Refusal where
  /-- Raised by no instruction: every row of the table has its meaning. Safe. -/
  | notModelled (mnemonic : String)
deriving DecidableEq, Repr

/-- The state of the block (10_state.md R48), its launch's parameters, and the model's own `schedule` and `response`. -/
structure State where
  /-- The launch's parameters, which no step changes (R48; log 1). -/
  cfg : Config
  /-- PENDING: none, or the accepted command word (R45). -/
  pending : Option Word
  /-- STATUS (R24 to R28). -/
  status : Status
  /-- CTRL (R29, R30). -/
  ctrl : Ctrl
  /-- CTRL as it was when the last command was accepted: what a read of CTRL returns while busy (20_memory.md R68; log 17). -/
  ctrlAtAcceptance : Ctrl
  /-- HEXCNT: the digits pushed, saturating (R31). -/
  hexcnt : BitVec 16
  /-- KEY[k] for k < KEY_SLOTS (R33). -/
  keys : List KeySlot
  /-- OP_BASE (R34). -/
  opBase : Big
  /-- OP_EXP (R34). -/
  opExp : Big
  /-- OP_MOD (R34). -/
  opMod : Big
  /-- OP_RES (R35). -/
  opRes : Big
  /-- The buffers CT and PT (R36, R37). -/
  mem : Memory
  /-- PT_LEN: the length of the plaintext in PT (R38). -/
  ptLen : BitVec 16
  /-- REC_STATUS.REC_VALID (R39). -/
  recValid : Bool
  /-- REC_STATUS.COMPLETE (R39). -/
  recComplete : Bool
  /-- FIELD_VALID[i] (R40). -/
  fieldValid : Vector Bool 32
  /-- FT[i] (R41, R42). -/
  ft : Vector FieldEntry 32
  /-- FV[i] (R44). -/
  fv : Vector FieldValue 32
  /-- The model's own: the rest of the interleaving, oldest first (20_memory.md R69; log 2). -/
  schedule : List Event
  /-- The model's own: the host port's answer to the last access (log 4). -/
  response : Option Response
deriving DecidableEq, Repr

/-- STATUS after reset, 0x00000000 (R260). -/
def Status.reset : Status :=
  { busy := false, done := false, err := .none, overrun := false, lockViolation := false }

/-- CTRL after reset, 0 (R260). -/
def Ctrl.reset : Ctrl := { irqEn := false, keyLock := false }

/-- A key slot after reset: every word 0 (R33). -/
def KeySlot.reset : KeySlot := { versionId := 0, modulus := 0, exponent := 0 }

/-- A field table entry after reset: both words 0, so the slot is disabled (R260). -/
def FieldEntry.reset : FieldEntry :=
  { offset := 0, width := 0, term := 0, fieldId := 0, elem := 0, kind := 0, rule := false, en := false }

/-- The sentinel's value part: LEN = 0 and DATA all 0x00 (42_record_decoder.md R183), also the reset value (R44). -/
def FieldValue.sentinel : FieldValue := { len := 0, data := Vector.replicate 64 0#8 }

/-- The state after reset of a launch with parameters `c` (70_reset_and_hazards.md R260), with nothing scheduled. -/
def State.resetOf (c : Config) : State :=
  { cfg := c
    pending := none
    status := Status.reset
    ctrl := Ctrl.reset
    ctrlAtAcceptance := Ctrl.reset
    hexcnt := 0
    keys := List.replicate c.keySlots KeySlot.reset
    opBase := 0
    opExp := 0
    opMod := 0
    opRes := 0
    mem := { cells := [] }
    ptLen := 0
    recValid := false
    recComplete := false
    fieldValid := Vector.replicate 32 false
    ft := Vector.replicate 32 FieldEntry.reset
    fv := Vector.replicate 32 FieldValue.sentinel
    schedule := []
    response := none }

/-- The machine right after reset, at the reference launch (log 1). -/
def State.reset : State := State.resetOf Config.reference

end Sys2Proof.Machine
end

