-- ==== Sys2Proof/Machine/Ops.lean ====
section
/-! DEFINITION. The shared operations over the byte buffers and the registers: every write a command, an acceptance,
a completion or a reset makes is one of these. -/

namespace Sys2Proof.Machine

/-- Window offset of CT[0] (10_state.md R36). -/
@[simp] def ctBase : Nat := 0x2000

/-- Window offset of PT[0] (10_state.md R37). -/
@[simp] def ptBase : Nat := 0x2400

/-- The byte a list of cells gives an offset; an unlisted offset reads as 0x00, its reset value (10_state.md R36, R37). -/
def readCells : List Host.Cell → Nat → Byte
  | [], _ => 0#8
  | c :: cs, a => if c.1 = a then c.2 else readCells cs a

/-- The cells of a byte string stored from offset `a` up: zero bytes are not listed. -/
def storedCells : Nat → List Byte → List Host.Cell
  | _, [] => []
  | a, b :: bs => if b = 0#8 then storedCells (a + 1) bs else (a, b) :: storedCells (a + 1) bs

/-- The one read of a byte. -/
def Memory.read (m : Memory) (a : Nat) : Byte := readCells m.cells a

/-- The `n` bytes from offset `a` up: `B[a +: n]` of 00_scope.md R10. -/
def Memory.load (m : Memory) (a n : Nat) : List Byte := (List.range n).map fun i => m.read (a + i)

/-- The one write: the byte string `bs` replaces the bytes from offset `a` up. It keeps the canonical form. -/
def Memory.store (m : Memory) (a : Nat) (bs : List Byte) : Memory :=
  { cells := m.cells.filter (fun c => decide (c.1 < a)) ++ storedCells a bs
      ++ m.cells.filter (fun c => decide (a + bs.length ≤ c.1)) }

/-- The canonical form: offsets strictly rising, no listed byte equal to what an unlisted offset reads as. -/
abbrev Memory.wf (m : Memory) : Prop :=
  m.cells.Pairwise (fun c d => c.1 < d.1) ∧ ∀ c ∈ m.cells, c.2 ≠ 0#8

/-- `n` zero bytes. -/
def zeroBytes (n : Nat) : List Byte := List.replicate n 0#8

/-- CT[i] (10_state.md R36). -/
def State.ctByte (s : State) (i : Nat) : Byte := s.mem.read (ctBase + i)

/-- PT[i] (10_state.md R37). -/
def State.ptByte (s : State) (i : Nat) : Byte := s.mem.read (ptBase + i)

/-- The ciphertext buffer as a byte string of 720 bytes. -/
def State.ct (s : State) : List Byte := s.mem.load ctBase inputLen

/-- The plaintext buffer as a byte string of 640 bytes. -/
def State.pt (s : State) : List Byte := s.mem.load ptBase ptSize

/-- KEY[k]; a slot the launch does not have reads as a reset slot (20_memory.md R65; log 13). -/
def State.key (s : State) (k : Nat) : KeySlot := (s.keys[k]?).getD KeySlot.reset

/-- The completion of a command with its outcome: the last three lines of R222 of 60_exceptions.md.
What the command's own rule writes is committed in the same step, by the meaning that calls this. -/
def State.complete (code : ErrCode) (s : State) : State :=
  { s with
    status := { s.status with err := code, busy := false, done := true }
    pending := none }

/-- Raising an error, the block's only exception: the command ends with the error's code and control goes nowhere
(60_exceptions.md R222, R233). The writes R224 lists for the error are made by the caller, as each command has its own.
There is no return from it: the host may issue the next command at once (R234). -/
def State.raise (code : ErrCode) (s : State) : State := s.complete code

/-- Acceptance of a command word while idle (10_state.md R23). CTRL, the one register besides STATUS that can change before
the completion, is kept as a read returns it until then (20_memory.md R68; log 17). -/
def State.accept (w : Word) (s : State) : State :=
  { s with
    status := { s.status with busy := true, done := false, err := .none }
    pending := some w
    ctrlAtAcceptance := s.ctrl }

/-- A protected or CMD write dropped because the block is busy (10_state.md R27, 70_reset_and_hazards.md R266). -/
def State.markOverrun (s : State) : State :=
  { s with status := { s.status with overrun := true } }

/-- A key write dropped because the key table is locked (10_state.md R28, R30). -/
def State.markLockViolation (s : State) : State :=
  { s with status := { s.status with lockViolation := true } }

/-- `clear_record()` (42_record_decoder.md R182). -/
def State.clearRecord (s : State) : State :=
  { s with
    recValid := false
    recComplete := false
    fieldValid := Vector.replicate 32 false
    fv := Vector.replicate 32 FieldValue.sentinel }

/-- PT takes a whole plaintext and PT_LEN its length (41_block_cryptor.md R147). -/
def State.setPlaintext (bs : List Byte) (len : BitVec 16) (s : State) : State :=
  { s with mem := s.mem.store ptBase bs, ptLen := len }

/-- The commit of a failed decryption: PT all 0x00, PT_LEN 0, the record cleared (60_exceptions.md R224). -/
def State.failDecrypt (s : State) : State :=
  s.clearRecord.setPlaintext (zeroBytes ptSize) 0#16

/-- The commit of a successful decryption: the plaintext and its length 640, the record cleared (41_block_cryptor.md R147). -/
def State.commitPlaintext (p : List Byte) (s : State) : State :=
  s.clearRecord.setPlaintext p 640#16

/-- OP_RES takes a result (41_block_cryptor.md R145). -/
def State.setResult (r : Big) (s : State) : State := { s with opRes := r }

/-- HEXCNT and CT take new contents: the writes of CLEAR_INPUT and PUSH_HEX (20_memory.md R76). -/
def State.setInput (count : BitVec 16) (m : Memory) (s : State) : State :=
  { s with hexcnt := count, mem := m }

/-- The record outputs take the result of a successful decode (42_record_decoder.md R186). -/
def State.setRecord (valid : Vector Bool 32) (values : Vector FieldValue 32) (isComplete : Bool) (s : State) : State :=
  { s with recValid := true, recComplete := isComplete, fieldValid := valid, fv := values }

/-- The reset input is asserted: every register and buffer takes its reset value, a pending command is abandoned with
nothing committed (70_reset_and_hazards.md R260, R261). The launch's parameters and the events still to come are not the
block's and stay (log 8). -/
def State.assertReset (s : State) : State :=
  { State.resetOf s.cfg with schedule := s.schedule }

/-- The host port's answer to an access. -/
def State.respond (r : Response) (s : State) : State := { s with response := some r }

end Sys2Proof.Machine
end

