-- ==== Sys2Proof/Machine/Operands.lean ====
section
/-! DEFINITION. The forms operands take on the bus: words of big-integer registers, byte lanes, the words of a field table
entry, and the names of record fields. -/

namespace Sys2Proof.Machine

/-- Word j of a big-integer register: bits [32j+31:32j] (20_memory.md R62). -/
def bigWord (x : Big) (j : Fin 32) : Word := x.extractLsb' (32 * j.val) 32

/-- A big-integer register with word j replaced (20_memory.md R62). -/
def setBigWord (x : Big) (j : Fin 32) (w : Word) : Big :=
  (x &&& ~~~((BitVec.allOnes 32).setWidth 1024 <<< (32 * j.val))) ||| (w.setWidth 1024 <<< (32 * j.val))

/-- Byte lane i of a bus word, little-endian: bits [8i+7:8i] (20_memory.md R61). -/
def laneOf (w : Word) (i : Nat) : Byte := w.extractLsb' (8 * i) 8

/-- The bus word of four bytes, the one at the lowest index in bits [7:0] (20_memory.md R61). -/
def wordOfLanes (b0 b1 b2 b3 : Byte) : Word := b3 ++ b2 ++ b1 ++ b0

/-- The four bytes of a bus word, lowest index first (20_memory.md R61). -/
def lanesOf (w : Word) : List Byte := [laneOf w 0, laneOf w 1, laneOf w 2, laneOf w 3]

/-- The bus word that maps the four buffer bytes from window offset `a` up (20_memory.md R61). -/
def Memory.busWord (m : Memory) (a : Nat) : Word :=
  wordOfLanes (m.read a) (m.read (a + 1)) (m.read (a + 2)) (m.read (a + 3))

/-- FT[i].W0 as a word (10_state.md R41). -/
def FieldEntry.w0 (f : FieldEntry) : Word := f.term ++ f.width ++ f.offset

/-- FT[i].W1 as a word; bits [31:16] are reserved and read 0 (10_state.md R42, R47). -/
def FieldEntry.w1 (f : FieldEntry) : Word :=
  0#16 ++ BitVec.ofBool f.en ++ BitVec.ofBool f.rule ++ f.kind ++ f.elem ++ f.fieldId

/-- FT[i] after a write of W0 (10_state.md R41). -/
def FieldEntry.setW0 (f : FieldEntry) (w : Word) : FieldEntry :=
  { f with offset := w.extractLsb' 0 16, width := w.extractLsb' 16 8, term := w.extractLsb' 24 8 }

/-- FT[i] after a write of W1; bits [31:16] are ignored (10_state.md R42, R47). -/
def FieldEntry.setW1 (f : FieldEntry) (w : Word) : FieldEntry :=
  { f with
    fieldId := w.extractLsb' 0 8
    elem := w.extractLsb' 8 4
    kind := w.extractLsb' 12 2
    rule := w.getLsbD 14
    en := w.getLsbD 15 }

/-- Word w of FV[i].DATA (10_state.md R44). -/
def FieldValue.dataWord (v : FieldValue) (w : Fin 16) : Word :=
  wordOfLanes v.data[4 * w.val] v.data[4 * w.val + 1] v.data[4 * w.val + 2] v.data[4 * w.val + 3]

/-- KEY[k] replaced; a slot the launch does not have is not written (20_memory.md R65). -/
def State.setKey (s : State) (k : Nat) (slot : KeySlot) : State := { s with keys := s.keys.set k slot }

/-- FT[i] replaced. -/
def State.setFieldEntry (s : State) (i : Fin 32) (f : FieldEntry) : State := { s with ft := s.ft.set i f }

/-- The record fields FIELD_ID names (10_state.md R43). -/
inductive RecordField where
  | surname
  | initials
  | idNumber
  | idNumberType
  | idCountryOfIssue
  | licenseCountryOfIssue
  | vehicleCode
  | vehicleRestriction
  | licenseNumber
  | licenseIssueDate
  | licenseExpiryDate
  | birthdate
  | gender
  | pdpCode
  | pdpExpiry
  | driverRestrictionCodes
  | imageWidth
  | imageHeight
deriving DecidableEq, Repr

/-- The table of R43 in its order: the field at position p has FIELD_ID p + 1. -/
def recordFields : List RecordField :=
  [.surname, .initials, .idNumber, .idNumberType, .idCountryOfIssue, .licenseCountryOfIssue, .vehicleCode,
   .vehicleRestriction, .licenseNumber, .licenseIssueDate, .licenseExpiryDate, .birthdate, .gender, .pdpCode,
   .pdpExpiry, .driverRestrictionCodes, .imageWidth, .imageHeight]

/-- The record field a FIELD_ID names; 0 and 19 to 255 name none (10_state.md R43). -/
def recordFieldOf (id : Byte) : Option RecordField :=
  if id = 0#8 then none else recordFields[id.toNat - 1]?

end Sys2Proof.Machine
end

