-- ==== Sys2Proof/Machine/Flags.lean ====
section
/-! DEFINITION. The flags of the block as the host sees and clears them: STATUS, CTRL, REC_STATUS, FIELD_VALID and irq. -/

namespace Sys2Proof.Machine

/-- The ERR code of an outcome (10_state.md R26). -/
def errCode : ErrCode → BitVec 3
  | .none => 0#3
  | .invalidInput => 1#3
  | .crypto => 2#3
  | .malformedRecord => 3#3
  | .illegalCommand => 4#3

/-- STATUS as a word: BUSY 0, DONE 1, ERR [4:2], OVERRUN 8, LOCK_VIOLATION 9, the rest reserved (10_state.md R24 to R28, R47). -/
def statusWord (t : Status) : Word :=
  0#22 ++ BitVec.ofBool t.lockViolation ++ BitVec.ofBool t.overrun ++ 0#3 ++ errCode t.err
    ++ BitVec.ofBool t.done ++ BitVec.ofBool t.busy

/-- STATUS after a host write: a 1 in bit 1, 8 or 9 clears DONE, OVERRUN or LOCK_VIOLATION; no other bit is writable
(10_state.md R25 to R28, R47). -/
def statusAfterWrite (t : Status) (w : Word) : Status :=
  { t with
    done := t.done && !w.getLsbD 1
    overrun := t.overrun && !w.getLsbD 8
    lockViolation := t.lockViolation && !w.getLsbD 9 }

/-- CTRL as a word: IRQ_EN 0, KEY_LOCK 1, the rest reserved (10_state.md R29, R30, R47). -/
def ctrlWord (c : Ctrl) : Word := 0#30 ++ BitVec.ofBool c.keyLock ++ BitVec.ofBool c.irqEn

/-- CTRL after a host write: bit 0 is written, a 1 in bit 1 sets KEY_LOCK and a 0 leaves it (10_state.md R29, R30). -/
def ctrlAfterWrite (c : Ctrl) (w : Word) : Ctrl :=
  { irqEn := w.getLsbD 0, keyLock := c.keyLock || w.getLsbD 1 }

/-- CTRL as a host read returns it: while busy the value it had at acceptance (20_memory.md R68), though a write takes effect
at once (70_reset_and_hazards.md R266; log 17). -/
def State.ctrlSeen (s : State) : Ctrl := if s.status.busy then s.ctrlAtAcceptance else s.ctrl

/-- REC_STATUS as a word: REC_VALID 0, COMPLETE 1 (10_state.md R39). -/
def recStatusWord (s : State) : Word := 0#30 ++ BitVec.ofBool s.recComplete ++ BitVec.ofBool s.recValid

/-- FIELD_VALID as a word: bit i is slot i's flag (10_state.md R40). -/
def fieldValidWord (v : Vector Bool 32) : Word := BitVec.ofFnLE fun i : Fin 32 => v[i.val]

/-- PARAMS: KEY_SLOTS, FIELD_SLOTS, FIELD_MAX_WIDTH, BLOCK_COUNT in its four bytes, lowest first (10_state.md R32). -/
def paramsWord (c : Config) : Word := 5#8 ++ 64#8 ++ 32#8 ++ BitVec.ofNat 8 c.keySlots

/-- The interrupt output: level-sensitive, active-high (60_exceptions.md R232). -/
def irq (s : State) : Bool := s.status.done && s.ctrl.irqEn

end Sys2Proof.Machine
end

