-- ==== Sys2Proof/Machine/Normalizer.lean ====
section
/-! DEFINITION. The input normalizer: NOP, CLEAR_INPUT, PUSH_HEX (40_input_normalizer.md). -/

namespace Sys2Proof.Machine

/-- `is_hex(c)` (R120). -/
def isHex (c : Byte) : Bool :=
  (decide (0x30 ≤ c.toNat) && decide (c.toNat ≤ 0x39))
    || (decide (0x41 ≤ c.toNat) && decide (c.toNat ≤ 0x46))
    || (decide (0x61 ≤ c.toNat) && decide (c.toNat ≤ 0x66))

/-- `hexval(c)`, the value of a hex digit; only asked of bytes with `isHex` (R121). -/
def hexval (c : Byte) : Nat :=
  if c.toNat ≤ 0x39 then c.toNat - 0x30
  else if c.toNat ≤ 0x46 then c.toNat - 0x41 + 10
  else c.toNat - 0x61 + 10

/-- The byte CT[HEXCNT div 2] takes from a digit of value `v`: a first digit is the high nibble with low nibble 0, a
second digit is added to the byte (R124). The sum is taken at the byte's width (log 9). -/
def nibbleInto (count : Nat) (old : Byte) (v : Nat) : Byte :=
  if count % 2 = 0 then BitVec.ofNat 8 (v * 16) else BitVec.ofNat 8 (old.toNat + v)

/-- CT after a digit of value `v`: digits from the 1441st on are not stored (R124). -/
def ctAfterDigit (s : State) (v : Nat) : Memory :=
  if s.hexcnt.toNat < hexLen then
    s.mem.store (ctBase + s.hexcnt.toNat / 2)
      [nibbleInto s.hexcnt.toNat (s.ctByte (s.hexcnt.toNat / 2)) v]
  else s.mem

/-- HEXCNT after a digit: one more, saturating at 0xFFFF (R124, 10_state.md R31). -/
def countAfterDigit (count : BitVec 16) : BitVec 16 :=
  if count.toNat < 0xFFFF then count + 1#16 else count

/-- The writes of PUSH_HEX c: a byte that is no hex digit changes nothing (R124). -/
def State.pushByte (c : Byte) (s : State) : State :=
  if isHex c then s.setInput (countAfterDigit s.hexcnt) (ctAfterDigit s (hexval c)) else s

/-- NOP (R122). -/
def execNop (s : State) : Host.Outcome State Fault Refusal :=
  .next (s.complete .none)

/-- CLEAR_INPUT (R123). -/
def execClearInput (s : State) : Host.Outcome State Fault Refusal :=
  .next ((s.setInput 0#16 (s.mem.store ctBase (zeroBytes inputLen))).complete .none)

/-- PUSH_HEX c (R124). -/
def execPushHex (c : Byte) (s : State) : Host.Outcome State Fault Refusal :=
  .next ((s.pushByte c).complete .none)

end Sys2Proof.Machine
end

