-- ==== Sys2Proof/Machine/Cryptor.lean ====
section
/-! DEFINITION. The block cryptor: MODPOW, DECRYPT (41_block_cryptor.md). -/

namespace Sys2Proof.Machine

/-- `int_be(B)`: the byte string as a big-endian unsigned integer (R140). -/
def intBE (bs : List Byte) : Nat := bs.foldl (fun acc b => acc * 256 + b.toNat) 0

/-- `bytes_be(x, w)`: the byte string of length w with byte i = (x div 256^(w-1-i)) mod 256 (R141). -/
def bytesBE (x w : Nat) : List Byte :=
  (List.range w).map fun i => BitVec.ofNat 8 (x / 256 ^ (w - 1 - i) % 256)

/-- The loop of R142: at most `fuel` iterations, ending when E is 0. -/
def modpowLoop : Nat → Nat → Nat → Nat → Nat → Nat
  | 0, result, _, _, _ => result
  | fuel + 1, result, base, e, n =>
    if e = 0 then result
    else modpowLoop fuel (if e % 2 = 1 then result * base % n else result) (base * base % n) (e / 2) n

/-- `modpow(b, e, n)`: LSB-first square-and-multiply from 1 mod n, one iteration per bit of e up to its highest set bit
(R142, R152). Asked only with n ≥ 1. -/
def modpow (b e n : Nat) : Nat := modpowLoop (e.log2 + 1) (1 % n) (b % n) e n

/-- Block b of a ciphertext: `C[6 + 128*b +: 128]` (R146). -/
def cipherBlock (c : List Byte) (b : Nat) : List Byte := (c.drop (headerLen + blockSize * b)).take blockSize

/-- One decrypted block: `bytes_be(modpow(int_be(block), e, n), 128)` (R146 steps 3a to 3c). -/
def decryptBlock (block : List Byte) (n e : Nat) : List Byte := bytesBE (modpow (intBE block) e n) blockSize

/-- `decrypt_fn(hexcnt, C, n, e)` (R146): the length gate first, then the key check, then the five blocks in order. -/
def decryptFn (hexcnt : Nat) (c : List Byte) (n e : Nat) : Except ErrCode (List Byte) :=
  if hexcnt ≠ hexLen then .error .invalidInput
  else if n ≤ 1 then .error .crypto
  else .ok ((List.range blockCount).flatMap fun b => decryptBlock (cipherBlock c b) n e)

/-- `decrypt_fn` on the state's input and key slot k (R147). -/
def State.decryptWith (k : Byte) (s : State) : Except ErrCode (List Byte) :=
  decryptFn s.hexcnt.toNat s.ct (s.key k.toNat).modulus.toNat (s.key k.toNat).exponent.toNat

/-- MODPOW (R145). -/
def execModpow (s : State) : Host.Outcome State Fault Refusal :=
  if s.opMod.toNat = 0 then .next ((s.setResult 0#1024).raise .crypto)
  else .next ((s.setResult (BitVec.ofNat 1024 (modpow s.opBase.toNat s.opExp.toNat s.opMod.toNat))).complete .none)

/-- DECRYPT k (R147). The decoder gives no command with k ≥ KEY_SLOTS; such a word is illegal and completes so
(30_encoding.md R95, log 16). -/
def execDecrypt (k : Byte) (s : State) : Host.Outcome State Fault Refusal :=
  if k.toNat < s.cfg.keySlots then
    match s.decryptWith k with
    | .ok p => .next ((s.commitPlaintext p).complete .none)
    | .error e => .next (s.failDecrypt.raise e)
  else .next (s.raise .illegalCommand)

end Sys2Proof.Machine
end

