-- ==== Sys2Proof/Machine/RecordDecoder.lean ====
section
/-! DEFINITION. The record decoder: DECODE (42_record_decoder.md). -/

namespace Sys2Proof.Machine

/-- Whether an enabled slot can be located (R173). -/
def locatable (f : FieldEntry) : Bool :=
  decide (1 ≤ f.fieldId.toNat) && decide (f.fieldId.toNat ≤ 18)
    && (f.kind != 3#2)
    && decide (1 ≤ f.width.toNat) && decide (f.width.toNat ≤ fieldMaxWidth)
    && decide (f.offset.toNat + f.width.toNat ≤ ptSize)

/-- A fill byte: space or NUL (R174). -/
def isFill (b : Byte) : Bool := b == 0x20#8 || b == 0x00#8

/-- `trim_fill(B)`: fill bytes are stripped from the end (R174). -/
def trimFill (bs : List Byte) : List Byte := (bs.reverse.dropWhile isFill).reverse

/-- The slot's window of the plaintext: `P[OFFSET +: WIDTH]` (R175). -/
def fieldWindow (f : FieldEntry) (p : List Byte) : List Byte := (p.drop f.offset.toNat).take f.width.toNat

/-- The scan of a DELIM field: the window's bytes before the first terminator, or all of them (R176). -/
def delimScan (term : Byte) (window : List Byte) : List Byte := window.takeWhile (· != term)

/-- The raw bytes of a slot by its RULE: FIXED is trimmed, DELIM is scanned and not trimmed (R175, R176, R181). -/
def rawField (f : FieldEntry) (p : List Byte) : List Byte :=
  if f.rule then delimScan f.term (fieldWindow f p) else trimFill (fieldWindow f p)

/-- Printable ASCII, 0x20 to 0x7E (R177). -/
def isPrintable (b : Byte) : Bool := decide (0x20 ≤ b.toNat) && decide (b.toNat ≤ 0x7E)

/-- An ASCII digit, 0x30 to 0x39 (R178). -/
def isDigit (b : Byte) : Bool := decide (0x30 ≤ b.toNat) && decide (b.toNat ≤ 0x39)

/-- The TEXT check (R177): an empty value is valid. -/
def textOk (raw : List Byte) : Bool := raw.all isPrintable

/-- The NUMERIC check (R178). -/
def numericOk (raw : List Byte) : Bool := decide (1 ≤ raw.length) && raw.all isDigit

/-- `decimal(d_1 … d_m)`: the value of a digit string (R189). -/
def decimal (ds : List Byte) : Nat := ds.foldl (fun acc d => acc * 10 + (d.toNat - 0x30)) 0

/-- A Gregorian leap year (R179). -/
def isLeapYear (y : Nat) : Bool := (decide (y % 4 = 0) && decide (y % 100 ≠ 0)) || decide (y % 400 = 0)

/-- `days_in_month(Y, M)`; asked only with 1 ≤ M ≤ 12 (R179). -/
def daysInMonth (y m : Nat) : Nat :=
  if m = 2 then (if isLeapYear y then 29 else 28)
  else if m = 4 ∨ m = 6 ∨ m = 9 ∨ m = 11 then 30
  else 31

/-- A DATE value read as (Y, M, D) (R180, R189). -/
def dateParts (raw : List Byte) : Nat × Nat × Nat :=
  (decimal (raw.take 4), decimal ((raw.drop 4).take 2), decimal ((raw.drop 6).take 2))

/-- Whether (Y, M, D) is a day of the calendar (R180). -/
def realDay (d : Nat × Nat × Nat) : Bool :=
  decide (1 ≤ d.2.1) && decide (d.2.1 ≤ 12) && decide (1 ≤ d.2.2) && decide (d.2.2 ≤ daysInMonth d.1 d.2.1)

/-- The DATE check: eight digits YYYYMMDD naming a real day (R180). -/
def dateOk (raw : List Byte) : Bool :=
  decide (raw.length = 8) && raw.all isDigit && realDay (dateParts raw)

/-- The check of a KIND; KIND 3 is reserved and never valid (R177, R178, R180; R173). -/
def kindOk (kind : BitVec 2) (raw : List Byte) : Bool :=
  if kind = 0#2 then textOk raw
  else if kind = 1#2 then numericOk raw
  else if kind = 2#2 then dateOk raw
  else false

/-- What the decoder finds for one slot (R184). -/
inductive SlotResult where
  | value (v : List Byte)
  | fieldError
  | disabled
deriving DecidableEq, Repr

/-- `extract(ft, P)` for an enabled slot (R181). -/
def extract (f : FieldEntry) (p : List Byte) : SlotResult :=
  if locatable f && kindOk f.kind (rawField f p) then .value (rawField f p) else .fieldError

/-- One slot of `decode_fn` (R184): a disabled slot is not decoded (R172). -/
def slotResult (f : FieldEntry) (p : List Byte) : SlotResult :=
  if f.en then extract f p else .disabled

/-- `decode_fn(P, ptlen, FT)` (R184). -/
def decodeFn (p : List Byte) (ptlen : Nat) (ft : Vector FieldEntry 32) : Except ErrCode (Fin 32 → SlotResult) :=
  if ptlen ≠ ptSize then .error .malformedRecord else .ok fun i => slotResult ft[i.val] p

/-- Whether a slot result is a value. -/
def SlotResult.isValue : SlotResult → Bool
  | .value _ => true
  | .fieldError => false
  | .disabled => false

/-- A value as it stands in FV[i]: its length (log 14), its bytes, then zero bytes (R186). -/
def valueField (v : List Byte) : FieldValue :=
  { len := Fin.ofNat 65 v.length, data := Vector.ofFn fun j => (v[j.val]?).getD 0#8 }

/-- FV[i] for a slot result: anything but a value leaves the sentinel (R183, R186). -/
def SlotResult.fieldValue : SlotResult → FieldValue
  | .value v => valueField v
  | .fieldError => FieldValue.sentinel
  | .disabled => FieldValue.sentinel

/-- `complete_fn(FT, r)` (R185): every enabled slot gave a value, and every FIELD_ID 1 to 18 has an enabled slot. -/
def completeFn (ft : Vector FieldEntry 32) (r : Fin 32 → SlotResult) : Bool :=
  (List.finRange 32).all (fun i => !ft[i.val].en || (r i).isValue)
    && (List.range 18).all fun f =>
      (List.finRange 32).any fun i => ft[i.val].en && decide (ft[i.val].fieldId.toNat = f + 1)

/-- The commit of a successful decode (R186). -/
def State.commitRecord (r : Fin 32 → SlotResult) (s : State) : State :=
  s.clearRecord.setRecord (Vector.ofFn fun i => (r i).isValue) (Vector.ofFn fun i => (r i).fieldValue)
    (completeFn s.ft r)

/-- DECODE (R186). -/
def execDecode (s : State) : Host.Outcome State Fault Refusal :=
  match decodeFn s.pt s.ptLen.toNat s.ft with
  | .ok r => .next ((s.commitRecord r).complete .none)
  | .error e => .next (s.clearRecord.raise e)

end Sys2Proof.Machine
end

