-- ==== Sys2Proof/Machine/Sequencing.lean ====
section
/-! DEFINITION. End-to-end sequencing: DECRYPT_DECODE (43_sequencing.md). -/

namespace Sys2Proof.Machine

/-- The decode part of DECRYPT_DECODE: `decode_fn(PT, 640, FT)` on the plaintext just written, which is never
MalformedRecord (R210). -/
def State.decodeCommitted (s : State) : State :=
  s.commitRecord fun i => slotResult s.ft[i.val] s.pt

/-- DECRYPT_DECODE k (R210). A k ≥ KEY_SLOTS is an illegal word, as for DECRYPT (30_encoding.md R95, log 16). -/
def execDecryptDecode (k : Byte) (s : State) : Host.Outcome State Fault Refusal :=
  if k.toNat < s.cfg.keySlots then
    match s.decryptWith k with
    | .ok p => .next ((s.commitPlaintext p).decodeCommitted.complete .none)
    | .error e => .next (s.failDecrypt.raise e)
  else .next (s.raise .illegalCommand)

end Sys2Proof.Machine
end

