-- ==== Sys2Proof/Machine/Dispatch.lean ====
section
/-! DEFINITION. The meaning of each command: its completion step (60_exceptions.md R222). -/

namespace Sys2Proof.Machine

def exec (i : Instr) (s : State) : Host.Outcome State Fault Refusal :=
  match i with
  | .nop => Sys2Proof.Machine.execNop s
  | .clearInput => Sys2Proof.Machine.execClearInput s
  | .pushHex c => Sys2Proof.Machine.execPushHex c s
  | .modpow => Sys2Proof.Machine.execModpow s
  | .decrypt k => Sys2Proof.Machine.execDecrypt k s
  | .decode => Sys2Proof.Machine.execDecode s
  | .decryptDecode k => Sys2Proof.Machine.execDecryptDecode k s

end Sys2Proof.Machine
end

