-- ==== Sys2Proof/Machine/Window.lean ====
section
/-! DEFINITION. The register window: its map, and what a host read and a host write of an offset do
(10_state.md section 1, 20_memory.md). -/

namespace Sys2Proof.Machine

/-- What stands at an aligned offset of the window (10_state.md section 1). -/
inductive WindowReg where
  | id
  | cmd
  | status
  | ctrl
  | hexcnt
  | ptLen
  | recStatus
  | fieldValid
  | params
  | opBase (j : Fin 32)
  | opExp (j : Fin 32)
  | opMod (j : Fin 32)
  | opRes (j : Fin 32)
  | keyVersion (k : Nat)
  | keyMod (k : Nat) (j : Fin 32)
  | keyExp (k : Nat) (j : Fin 32)
  /-- Bus word w of CT, at offset 0x2000 + 4·w. -/
  | ct (w : Nat)
  /-- Bus word w of PT, at offset 0x2400 + 4·w. -/
  | pt (w : Nat)
  | ftW0 (i : Fin 32)
  | ftW1 (i : Fin 32)
  | fvLen (i : Fin 32)
  | fvData (i : Fin 32) (w : Fin 16)
  /-- Unmapped or reserved: reads 0, ignores writes (20_memory.md R65, 10_state.md R47). -/
  | unmapped
deriving DecidableEq, Repr

/-- The KEY range, 0x1000 to 0x1FFF: slot k's 0x200 bytes (10_state.md R33); a slot k ≥ KEY_SLOTS is unmapped
(20_memory.md R65). Reserved offsets raise no flag (log 6). -/
def keyRegAt (keySlots off : Nat) : WindowReg :=
  let k := (off - 0x1000) / 0x200
  let r := (off - 0x1000) % 0x200
  if keySlots ≤ k then .unmapped
  else if r = 0 then .keyVersion k
  else if 0x080 ≤ r ∧ r < 0x100 then .keyMod k (Fin.ofNat 32 ((r - 0x080) / 4))
  else if 0x100 ≤ r ∧ r < 0x180 then .keyExp k (Fin.ofNat 32 ((r - 0x100) / 4))
  else .unmapped

/-- The FV range, 0x4000 to 0x4FFF: slot i's 0x80 bytes (10_state.md R44). -/
def fvRegAt (off : Nat) : WindowReg :=
  let i := Fin.ofNat 32 ((off - 0x4000) / 0x80)
  let r := (off - 0x4000) % 0x80
  if r = 0 then .fvLen i
  else if 0x40 ≤ r then .fvData i (Fin.ofNat 16 ((r - 0x40) / 4))
  else .unmapped

/-- The map of 10_state.md section 1, asked of aligned offsets below 0x5000. -/
def regAt (keySlots off : Nat) : WindowReg :=
  if off = 0x000 then .id
  else if off = 0x004 then .cmd
  else if off = 0x008 then .status
  else if off = 0x00C then .ctrl
  else if off = 0x010 then .hexcnt
  else if off = 0x014 then .ptLen
  else if off = 0x018 then .recStatus
  else if off = 0x01C then .fieldValid
  else if off = 0x020 then .params
  else if 0x800 ≤ off ∧ off < 0x880 then .opBase (Fin.ofNat 32 ((off - 0x800) / 4))
  else if 0x880 ≤ off ∧ off < 0x900 then .opExp (Fin.ofNat 32 ((off - 0x880) / 4))
  else if 0x900 ≤ off ∧ off < 0x980 then .opMod (Fin.ofNat 32 ((off - 0x900) / 4))
  else if 0x980 ≤ off ∧ off < 0xA00 then .opRes (Fin.ofNat 32 ((off - 0x980) / 4))
  else if 0x1000 ≤ off ∧ off < 0x2000 then keyRegAt keySlots off
  else if 0x2000 ≤ off ∧ off < 0x22D0 then .ct ((off - 0x2000) / 4)
  else if 0x2400 ≤ off ∧ off < 0x2680 then .pt ((off - 0x2400) / 4)
  else if 0x3000 ≤ off ∧ off < 0x3100 then
    (if off % 8 = 0 then .ftW0 (Fin.ofNat 32 ((off - 0x3000) / 8)) else .ftW1 (Fin.ofNat 32 ((off - 0x3000) / 8)))
  else if 0x4000 ≤ off ∧ off < 0x5000 then fvRegAt off
  else .unmapped

/-- What a register reads as. No read has a side effect (20_memory.md R66). While busy every register but STATUS reads as at
acceptance (R68): CTRL through the value kept then, the others because nothing changes them before the completion. -/
def readReg (s : State) : WindowReg → Word
  | .id => deviceId
  | .cmd => 0#32
  | .status => statusWord s.status
  | .ctrl => ctrlWord s.ctrlSeen
  | .hexcnt => s.hexcnt.setWidth 32
  | .ptLen => s.ptLen.setWidth 32
  | .recStatus => recStatusWord s
  | .fieldValid => fieldValidWord s.fieldValid
  | .params => paramsWord s.cfg
  | .opBase j => bigWord s.opBase j
  | .opExp j => bigWord s.opExp j
  | .opMod j => bigWord s.opMod j
  | .opRes j => bigWord s.opRes j
  | .keyVersion k => (s.key k).versionId
  | .keyMod k j => bigWord (s.key k).modulus j
  | .keyExp k j => bigWord (s.key k).exponent j
  | .ct w => s.mem.busWord (ctBase + 4 * w)
  | .pt w => s.mem.busWord (ptBase + 4 * w)
  | .ftW0 i => s.ft[i.val].w0
  | .ftW1 i => s.ft[i.val].w1
  | .fvLen i => BitVec.ofNat 32 s.fv[i.val].len.val
  | .fvData i w => s.fv[i.val].dataWord w
  | .unmapped => 0#32

/-- A write to a register that R266 of 70_reset_and_hazards.md protects: dropped with OVERRUN while busy. -/
def State.guarded (s : State) (written : State) : State := if s.status.busy then s.markOverrun else written

/-- A write to a KEY register: dropped with LOCK_VIOLATION while locked (10_state.md R30) and with OVERRUN while busy
(70_reset_and_hazards.md R266). While both, both rules apply and both flags are set (log 5). -/
def State.guardedKey (s : State) (written : State) : State :=
  if s.ctrl.keyLock then (if s.status.busy then s.markOverrun.markLockViolation else s.markLockViolation)
  else s.guarded written

/-- What a write of a register does (20_memory.md R66). Read-only registers and reserved offsets ignore it (10_state.md R47). -/
def writeReg (s : State) (v : Word) : WindowReg → State
  | .id => s
  | .cmd => s.guarded (s.accept v)
  | .status => { s with status := statusAfterWrite s.status v }
  | .ctrl => { s with ctrl := ctrlAfterWrite s.ctrl v }
  | .hexcnt => s
  | .ptLen => s.guarded { s with ptLen := v.extractLsb' 0 16 }
  | .recStatus => s
  | .fieldValid => s
  | .params => s
  | .opBase j => s.guarded { s with opBase := setBigWord s.opBase j v }
  | .opExp j => s.guarded { s with opExp := setBigWord s.opExp j v }
  | .opMod j => s.guarded { s with opMod := setBigWord s.opMod j v }
  | .opRes _ => s
  | .keyVersion k => s.guardedKey (s.setKey k { s.key k with versionId := v })
  | .keyMod k j => s.guardedKey (s.setKey k { s.key k with modulus := setBigWord (s.key k).modulus j v })
  | .keyExp k j => s.guardedKey (s.setKey k { s.key k with exponent := setBigWord (s.key k).exponent j v })
  | .ct _ => s
  | .pt w => s.guarded { s with mem := s.mem.store (ptBase + 4 * w) (lanesOf v) }
  | .ftW0 i => s.guarded (s.setFieldEntry i (s.ft[i.val].setW0 v))
  | .ftW1 i => s.guarded (s.setFieldEntry i (s.ft[i.val].setW1 v))
  | .fvLen _ => s
  | .fvData _ _ => s
  | .unmapped => s

/-- `offset = addr − BASE`, for 0 ≤ offset < 0x5000; none outside the window (20_memory.md R63). -/
def windowOffset (c : Config) (addr : Nat) : Option Nat :=
  if c.base ≤ addr ∧ addr - c.base < windowSize then some (addr - c.base) else none

/-- Whether the block performs an access: a 32-bit one at a multiple of 4 (20_memory.md R64). -/
def performed (size : AccessSize) (off : Nat) : Bool := decide (size = .w32) && decide (off % 4 = 0)

/-- A host read of a window offset: the state and the port's answer. A read that is not performed answers a bus error
with data 0 (20_memory.md R64). -/
def busRead (size : AccessSize) (off : Nat) (s : State) : State :=
  if performed size off then
    s.respond { busError := false, data := some (readReg s (regAt s.cfg.keySlots off)) }
  else s.respond { busError := true, data := some 0#32 }

/-- A host write of a window offset. A write that is not performed answers a bus error and changes nothing of the block
(20_memory.md R64). -/
def busWrite (size : AccessSize) (off : Nat) (v : Word) (s : State) : State :=
  if performed size off then
    (writeReg s v (regAt s.cfg.keySlots off)).respond { busError := false, data := none }
  else s.respond { busError := true, data := none }

end Sys2Proof.Machine
end

