-- ==== Sys2Proof/Machine/Engine.lean ====
section
/-! DEFINITION. The two agents of 20_memory.md R69 and their interleaving: the engine's completion step, the host's
accesses, the reset input. -/

namespace Sys2Proof.Machine

/-- The engine's step (60_exceptions.md R222): decode PENDING; run the command's rule, or complete with ILLEGAL_COMMAND and
no other effect (R227). With nothing pending the engine has no step and the state stays (log 2). -/
def completePending (s : State) : Host.Outcome State Fault Refusal :=
  match s.pending with
  | none => .next s
  | some w =>
    match decode s.cfg.keySlots w with
    | .command i => exec i s
    | .illegal _ => .next (s.raise .illegalCommand)

/-- One event of the interleaving. A host access outside the window is the model's one fault (log 7). -/
def takeEvent (e : Event) (s : State) : Host.Outcome State Fault Refusal :=
  match e with
  | .engine => completePending s
  | .reset => .next s.assertReset
  | .read size addr =>
    match windowOffset s.cfg addr with
    | none => .fault .outsideWindow
    | some off => .next (busRead size off s)
  | .write size addr v =>
    match windowOffset s.cfg addr with
    | none => .fault .outsideWindow
    | some off => .next (busWrite size off v s)

/-- One step of a run: the next event of the schedule; when none is left the engine takes its step, so that every accepted
command completes (60_exceptions.md R223; log 2). -/
def stepSchedule (s : State) : Host.Outcome State Fault Refusal :=
  match s.schedule with
  | [] => completePending s
  | e :: rest => takeEvent e { s with schedule := rest }

/-- A command word accepted and about to complete: what the write of it to CMD leaves (10_state.md R23), with no host event
before the completion (log 3). -/
def State.presentCommand (w : Word) (s : State) : State := { s.accept w with schedule := [] }

end Sys2Proof.Machine
end

