-- ==== Sys2Proof/Machine/Step.lean ====
section
/-! DEFINITION. The machine's step. -/

namespace Sys2Proof.Machine

/-- One step of the block and its host (20_memory.md R69). -/
def step (s : State) : Host.Outcome State Fault Refusal := stepSchedule s

/-- The state whose very next step runs the command word `w`: the word is PENDING, as right after its write to CMD (log 3). -/
def State.withFetchWord (s : State) (_nbits w : Nat) : State := s.presentCommand (BitVec.ofNat 32 w)

end Sys2Proof.Machine
end

