-- ==== Sys2Proof/Machine/Assembler.lean ====
section
/-! DEFINITION. Host programs: the statements of 30_encoding.md R96, the expansions of R97, and the set-up of
70_reset_and_hazards.md R264, as events of the interleaving. -/

namespace Sys2Proof.Machine

/-- A statement of a host program (30_encoding.md R96). -/
inductive HostStatement where
  /-- A command mnemonic: shorthand for a write of its encoding to CMD. -/
  | cmd (i : Instr)
  /-- `wr off, v` -/
  | wr (off : Nat) (v : Word)
  /-- `rd off` -/
  | rd (off : Nat)
deriving DecidableEq, Repr

/-- The host access a statement makes, on a window at `base` (00_scope.md R12, 20_memory.md R63). -/
def HostStatement.event (base : Nat) : HostStatement → Event
  | .cmd i => .write .w32 (base + 0x004) (encode i)
  | .wr off v => .write .w32 (base + off) v
  | .rd off => .read .w32 (base + off)

/-- `PUSH_STR "s"`: one PUSH_HEX per byte, non-hex bytes included (R97). -/
def pushStr (text : List Byte) : List HostStatement := text.map fun b => .cmd (.pushHex b)

/-- `WR_BIG base, v`: words 0 to 31 in order (R97). -/
def wrBig (at0 : Nat) (v : Big) : List HostStatement :=
  (List.finRange 32).map fun j => .wr (at0 + 4 * j.val) (bigWord v j)

/-- `LOAD_KEY k, vid, n, e` (R97). -/
def loadKey (k : Nat) (vid : Word) (n e : Big) : List HostStatement :=
  .wr (0x1000 + 0x200 * k) vid :: (wrBig (0x1080 + 0x200 * k) n ++ wrBig (0x1100 + 0x200 * k) e)

/-- `WR_BYTES base, B`: words of little-endian lanes; B has a length that is a multiple of 4 (R97). -/
def wrBytes : Nat → List Byte → List HostStatement
  | at0, b0 :: b1 :: b2 :: b3 :: rest => .wr at0 (wordOfLanes b0 b1 b2 b3) :: wrBytes (at0 + 4) rest
  | _, _ => []

/-- `FT_SET i, off, width, term, fid, elem, kind, rule, en` (R97). -/
def ftSet (i off width term fid elem kind rule en : Nat) : List HostStatement :=
  [.wr (0x3000 + 8 * i) (BitVec.ofNat 32 (off + 2 ^ 16 * width + 2 ^ 24 * term)),
   .wr (0x3004 + 8 * i) (BitVec.ofNat 32 (fid + 2 ^ 8 * elem + 2 ^ 12 * kind + 2 ^ 14 * rule + 2 ^ 15 * en))]

/-- `WAIT` (R97) in a run where `polls` reads of STATUS see BUSY = 1 before the engine completes, then one sees 0 (log 15). -/
def waitEvents (base polls : Nat) : List Event :=
  List.replicate polls (.read .w32 (base + 0x008)) ++ [.engine, .read .w32 (base + 0x008)]

/-- `CMDW x`: the command followed by WAIT (R97). -/
def cmdw (base polls : Nat) (i : Instr) : List Event :=
  (HostStatement.cmd i).event base :: waitEvents base polls

/-- The set-up of R264 of 70_reset_and_hazards.md, steps 2 to 6: read ID and PARAMS, load the keys from slot 0 up, lock the
key table, write the field table's words from slot 0 up, and write IRQ_EN last. -/
def setUp (keys : List KeySlot) (table : List FieldEntry) (irqEn : Bool) : List HostStatement :=
  [.rd 0x000, .rd 0x020]
    ++ keys.zipIdx.flatMap (fun p => loadKey p.2 p.1.versionId p.1.modulus p.1.exponent)
    ++ [.wr 0x00C 2#32]
    ++ table.zipIdx.flatMap (fun p => [.wr (0x3000 + 8 * p.2) p.1.w0, .wr (0x3004 + 8 * p.2) p.1.w1])
    ++ (if irqEn then [.wr 0x00C 1#32] else [])

/-- One decode of R264: CLEAR_INPUT, the hex text, DECRYPT_DECODE k, each followed by a WAIT, then the reads of the outcome. -/
def decodeOneText (base polls : Nat) (text : List Byte) (k : Byte) : List Event :=
  cmdw base polls .clearInput ++ text.flatMap (fun b => cmdw base polls (.pushHex b))
    ++ cmdw base polls (.decryptDecode k)
    ++ [.read .w32 (base + 0x008), .read .w32 (base + 0x018), .read .w32 (base + 0x01C)]

end Sys2Proof.Machine
end

