-- ==== Sys2Proof/Safety.lean ====
section
/-! DEFINITION. What a good state and a good run are, in the terms the statements use. -/

namespace Sys2Proof.Machine

/-- An offset of the CT buffer (10_state.md R36). -/
abbrev inCt (a : Nat) : Prop := ctBase ≤ a ∧ a < ctBase + inputLen

/-- An offset of the PT buffer (10_state.md R37). -/
abbrev inPt (a : Nat) : Prop := ptBase ≤ a ∧ a < ptBase + ptSize

/-- The byte buffers are in canonical form and list bytes of CT and PT only. -/
abbrev State.memoryInv (s : State) : Prop :=
  s.mem.wf ∧ ∀ c ∈ s.mem.cells, inCt c.1 ∨ inPt c.1

/-- BUSY is 1 exactly while PENDING holds a command (10_state.md R24, R45), and then DONE and ERR are 0 (R23, R25). -/
abbrev State.handshakeInv (s : State) : Prop :=
  s.status.busy = s.pending.isSome ∧
    (s.status.busy = true → s.status.done = false ∧ s.status.err = .none)

/-- The record outputs fit together: COMPLETE implies REC_VALID (10_state.md R39); without REC_VALID no slot is valid; a slot
that is not valid holds the sentinel (42_record_decoder.md R183); DATA is zero from LEN up (10_state.md R44). -/
abbrev State.recordInv (s : State) : Prop :=
  (s.recComplete = true → s.recValid = true) ∧
  (s.recValid = false → ∀ i : Fin 32, s.fieldValid[i.val] = false) ∧
  (∀ i : Fin 32, s.fieldValid[i.val] = false → s.fv[i.val] = FieldValue.sentinel) ∧
  (∀ (i : Fin 32) (j : Fin 64), s.fv[i.val].len.val ≤ j.val → s.fv[i.val].data[j.val] = 0#8)

/-- CT holds only what was pushed: bytes no digit has reached are 0, and after an odd count the last byte's low nibble is 0
(40_input_normalizer.md R124). -/
abbrev State.inputInv (s : State) : Prop :=
  ∀ j : Fin 720, (s.hexcnt.toNat ≤ 2 * j.val → s.ctByte j.val = 0#8) ∧
    (s.hexcnt.toNat = 2 * j.val + 1 → (s.ctByte j.val).toNat % 16 = 0)

/-- The launch's parameters are legal (00_scope.md R8) and the key table has KEY_SLOTS slots (10_state.md R33). -/
abbrev State.configInv (s : State) : Prop :=
  s.cfg.wf = true ∧ s.keys.length = s.cfg.keySlots

/-- Every invariant of the model together. -/
abbrev State.Inv (s : State) : Prop :=
  s.memoryInv ∧ s.handshakeInv ∧ s.recordInv ∧ s.inputInv ∧ s.configInv

/-- An event that is no host access outside the window (20_memory.md R63). -/
def Event.inWindow (c : Config) : Event → Bool
  | .read _ addr => (windowOffset c addr).isSome
  | .write _ addr _ => (windowOffset c addr).isSome
  | .reset => true
  | .engine => true

/-- A host access, as against a reset or an engine step. -/
def Event.isAccess : Event → Bool
  | .read _ _ => true
  | .write _ _ _ => true
  | .reset => false
  | .engine => false

/-- The end of a run: the host has issued its last access and PENDING = none (70_reset_and_hazards.md R272). -/
def State.finished (s : State) : Prop := s.schedule = [] ∧ s.pending = none

/-- Commands run one after another, each by its completion step (10_state.md R21). -/
def execAll : List Instr → State → Host.Outcome State Fault Refusal
  | [], s => .next s
  | i :: rest, s =>
    match exec i s with
    | .next t => execAll rest t
    | .fault r => .fault r
    | .refused r => .refused r

/-- STATUS after a completion with outcome `e`: ERR is written, BUSY falls, DONE rises, the sticky flags stay
(60_exceptions.md R222, 10_state.md R27, R28). -/
def Status.completed (t : Status) (e : ErrCode) : Status := { t with err := e, busy := false, done := true }

/-- A key slot index the launch has: the legality condition of DECRYPT and DECRYPT_DECODE (30_encoding.md R93). -/
def State.legalSlot (s : State) (k : Byte) : Prop := k.toNat < s.cfg.keySlots

/-- The modulus of the key slot a command names. -/
def State.modulusOf (s : State) (k : Byte) : Nat := (s.key k.toNat).modulus.toNat

/-- The exponent of the key slot a command names. -/
def State.exponentOf (s : State) (k : Byte) : Nat := (s.key k.toNat).exponent.toNat

/-- An aligned offset of a KEY register of a slot the launch has: VERSION_ID, MOD or EXP (10_state.md R33). -/
def isKeyOffset (keySlots off : Nat) : Prop :=
  ∃ k r, k < keySlots ∧ off = 0x1000 + 0x200 * k + r ∧ r % 4 = 0 ∧ (r = 0 ∨ (0x080 ≤ r ∧ r < 0x180))

/-- An aligned offset, other than of CMD and KEY, that 70_reset_and_hazards.md R266 protects while busy:
OP_BASE, OP_EXP, OP_MOD, PT_LEN, PT, FT. -/
def isGuardedOffset (off : Nat) : Prop :=
  off % 4 = 0 ∧ ((0x800 ≤ off ∧ off < 0x980) ∨ off = 0x014 ∨ (0x2400 ≤ off ∧ off < 0x2680) ∨ (0x3000 ≤ off ∧ off < 0x3100))

/-- An aligned offset of a read-only register: ID, HEXCNT, REC_STATUS, FIELD_VALID, PARAMS, OP_RES, CT, FV
(10_state.md section 1). -/
def isReadOnlyOffset (off : Nat) : Prop :=
  off % 4 = 0 ∧ (off = 0x000 ∨ off = 0x010 ∨ off = 0x018 ∨ off = 0x01C ∨ off = 0x020
    ∨ (0x980 ≤ off ∧ off < 0xA00) ∨ (0x2000 ≤ off ∧ off < 0x22D0)
    ∨ (0x4000 ≤ off ∧ off < 0x5000 ∧ ((off - 0x4000) % 0x80 = 0 ∨ 0x40 ≤ (off - 0x4000) % 0x80)))

/-- An aligned offset of the window that nothing is mapped at: the gaps of 20_memory.md R65, the key slots the launch does not
have, and the reserved offsets of 10_state.md R47. -/
def isUnmappedOffset (keySlots off : Nat) : Prop :=
  off % 4 = 0 ∧ ((0x024 ≤ off ∧ off ≤ 0x7FC) ∨ (0xA00 ≤ off ∧ off ≤ 0xFFC) ∨ (0x22D0 ≤ off ∧ off ≤ 0x23FC)
    ∨ (0x2680 ≤ off ∧ off ≤ 0x2FFC) ∨ (0x3100 ≤ off ∧ off ≤ 0x3FFC)
    ∨ (0x1000 ≤ off ∧ off < 0x2000 ∧ keySlots ≤ (off - 0x1000) / 0x200)
    ∨ (0x1000 ≤ off ∧ off < 0x2000 ∧ 0x004 ≤ (off - 0x1000) % 0x200 ∧ (off - 0x1000) % 0x200 ≤ 0x07C)
    ∨ (0x1000 ≤ off ∧ off < 0x2000 ∧ 0x180 ≤ (off - 0x1000) % 0x200)
    ∨ (0x4000 ≤ off ∧ off < 0x5000 ∧ 0x04 ≤ (off - 0x4000) % 0x80 ∧ (off - 0x4000) % 0x80 ≤ 0x3C))

/-- The bits a read-write register keeps of a write: reserved bits read 0 (10_state.md R38, R42, R47). -/
def keptBits (off : Nat) : Word :=
  if off = 0x014 then 0x0000FFFF#32
  else if 0x3000 ≤ off ∧ off < 0x3100 ∧ off % 8 = 4 then 0x0000FFFF#32
  else 0xFFFFFFFF#32

/-- The locate check of 42_record_decoder.md R173, in its own terms. -/
def canLocate (f : FieldEntry) : Prop :=
  1 ≤ f.fieldId.toNat ∧ f.fieldId.toNat ≤ 18 ∧ f.kind ≠ 3#2 ∧ 1 ≤ f.width.toNat ∧ f.width.toNat ≤ 64
    ∧ f.offset.toNat + f.width.toNat ≤ 640

/-- What the host can read of a state through the window at an aligned offset (70_reset_and_hazards.md R272). -/
def readOffset (s : State) (off : Nat) : Word := readReg s (regAt s.cfg.keySlots off)

end Sys2Proof.Machine
end

