-- ==== Sys2Proof/Certificates/Slice0/Obligations.lean ====
section
/-! DEFINITION. The statements for the provers. Each docstring names the rule of spec/ it formalises. -/

open Sys2Proof Sys2Proof.Machine

/-! Encoding. -/

/-- 30_encoding.md R98: the worked encodings, legal and illegal. -/
def Obligations.WorkedEncodings : Prop :=
  encode (.pushHex 0x41#8) = 0x00004102#32 ∧
  encode (.pushHex 0x66#8) = 0x00006602#32 ∧
  encode (.pushHex 0x20#8) = 0x00002002#32 ∧
  (∀ ks, decode ks 0x00002002#32 = .command (.pushHex 0x20#8)) ∧
  (∀ s : State, exec (.pushHex 0x20#8) s = .next (s.complete .none)) ∧
  encode (.decrypt 0x00#8) = 0x00000011#32 ∧
  encode (.decrypt 0x01#8) = 0x00000111#32 ∧
  decode 1 0x00000111#32 = .illegal .keySlotOutOfRange ∧
  (∀ ks, decode ks 0x00010000#32 = .illegal .reservedBits) ∧
  (∀ ks, decode ks 0x00000003#32 = .illegal .unassignedOpcode) ∧
  (∀ ks, decode ks 0x00000120#32 = .illegal .argNotZero) ∧
  ftSet 0 100 2 0 5 0 0 0 1 = [.wr 0x3000 0x00020064#32, .wr 0x3004 0x00008005#32]

/-- 30_encoding.md R91 to R94: every legal command's word decodes to that command, at every operand value. -/
def Obligations.DecodeOfEncode : Prop :=
  ∀ (ks : Nat) (i : Instr), i.wf ks = true → decode ks (encode i) = .command i

/-- 30_encoding.md R91 to R94: a word that decodes to a command is that command's one encoding, and the command is legal. -/
def Obligations.EncodeOfDecode : Prop :=
  ∀ (ks : Nat) (w : Word) (i : Instr), decode ks w = .command i → encode i = w ∧ i.wf ks = true

/-- 30_encoding.md R95: exactly which words are illegal, in arithmetic on the word's number. -/
def Obligations.IllegalWordsExactly : Prop :=
  ∀ (ks : Nat) (w : Word),
    (∃ why, decode ks w = .illegal why) ↔
      (w.toNat / 65536 ≠ 0
        ∨ w.toNat % 256 ∉ [0x00, 0x01, 0x02, 0x10, 0x11, 0x20, 0x30]
        ∨ (w.toNat % 256 ∈ [0x00, 0x01, 0x10, 0x20] ∧ w.toNat / 256 % 256 ≠ 0)
        ∨ (w.toNat % 256 ∈ [0x11, 0x30] ∧ ks ≤ w.toNat / 256 % 256))

/-- 30_encoding.md R93: no two rows of the command table match one word, and a decoded word selects its command's row. -/
def Obligations.TableRowsDisjointAndSelected : Prop :=
  (∀ (w : Word) (r₁ r₂ : TableRow), r₁ ∈ commandTable → r₂ ∈ commandTable → r₁.selects w = true → r₂.selects w = true →
    r₁ = r₂) ∧
  (∀ (ks : Nat) (w : Word) (i : Instr), decode ks w = .command i →
    ∃ r ∈ commandTable, r.mnemonic = mnemonicOf i ∧ r.selects w = true)

/-! The engine's step. -/

/-- 60_exceptions.md R222: when the engine takes its step on a legal pending word, the step is that command's meaning.
What the step adds around it is the model's schedule alone: the engine's turn is taken off it (log 2). -/
def Obligations.StepRunsDecodedCommand : Prop :=
  ∀ (s : State) (w : Word) (i : Instr), s.pending = some w → decode s.cfg.keySlots w = .command i →
    (s.schedule = [] → step s = exec i s) ∧
    (∀ rest, s.schedule = .engine :: rest → step s = exec i { s with schedule := rest })

/-- 60_exceptions.md R227: an illegal pending word completes with ERR = 4 and no other effect. -/
def Obligations.IllegalCommandChangesOnlyStatus : Prop :=
  ∀ (s : State) (w : Word) (why : IllegalWord) (rest : List Event), s.pending = some w →
    decode s.cfg.keySlots w = .illegal why → s.schedule = .engine :: rest →
    step s = .next { s with schedule := rest, pending := none, status := s.status.completed .illegalCommand }

/-- 60_exceptions.md R222 and 20_memory.md R76: every command completes, whatever the state; the completion clears PENDING and
BUSY and raises DONE; each command writes the state of its own row of R76 alone: none the sticky flags, CTRL, the key table, the
operand registers, the field table or a byte of the window outside CT and PT; only CLEAR_INPUT and PUSH_HEX HEXCNT and CT; only
MODPOW OP_RES; NOP, CLEAR_INPUT, PUSH_HEX and MODPOW no PT, PT_LEN or record output; DECODE no PT and no PT_LEN; and NOP,
MODPOW and DECODE no byte of memory. -/
def Obligations.EveryCommandCompletesInItsFrame : Prop :=
  ∀ (i : Instr) (s : State), ∃ t, exec i s = .next t ∧
    t.pending = none ∧ t.status.busy = false ∧ t.status.done = true ∧
    t.status.overrun = s.status.overrun ∧ t.status.lockViolation = s.status.lockViolation ∧
    t.cfg = s.cfg ∧ t.ctrl = s.ctrl ∧ t.ctrlAtAcceptance = s.ctrlAtAcceptance ∧ t.keys = s.keys ∧
    t.opBase = s.opBase ∧ t.opExp = s.opExp ∧ t.opMod = s.opMod ∧
    t.ft = s.ft ∧ t.schedule = s.schedule ∧ t.response = s.response ∧
    (∀ a, ¬ inCt a → ¬ inPt a → t.mem.read a = s.mem.read a) ∧
    (i ≠ .clearInput → (∀ c, i ≠ .pushHex c) → t.hexcnt = s.hexcnt ∧ ∀ j, j < 720 → t.ctByte j = s.ctByte j) ∧
    (i ≠ .modpow → t.opRes = s.opRes) ∧
    ((i = .nop ∨ i = .clearInput ∨ (∃ c, i = .pushHex c) ∨ i = .modpow) →
      t.ptLen = s.ptLen ∧ t.recValid = s.recValid ∧ t.recComplete = s.recComplete ∧ t.fieldValid = s.fieldValid ∧
      t.fv = s.fv ∧ ∀ j, j < 640 → t.ptByte j = s.ptByte j) ∧
    (i = .decode → t.ptLen = s.ptLen) ∧
    ((i = .nop ∨ i = .modpow ∨ i = .decode) → ∀ a, t.mem.read a = s.mem.read a)

/-- 60_exceptions.md R221, R225, R226, R228, R230: which error each command reports, and on exactly which states. -/
def Obligations.ErrorCausesExactly : Prop :=
  ∀ (i : Instr) (s : State), ∃ t, exec i s = .next t ∧
    (t.status.err = .illegalCommand ↔ i.wf s.cfg.keySlots = false) ∧
    (t.status.err = .invalidInput ↔
      ∃ k, (i = .decrypt k ∨ i = .decryptDecode k) ∧ s.legalSlot k ∧ s.hexcnt.toNat ≠ 1440) ∧
    (t.status.err = .crypto ↔
      (i = .modpow ∧ s.opMod.toNat = 0) ∨
      ∃ k, (i = .decrypt k ∨ i = .decryptDecode k) ∧ s.legalSlot k ∧ s.hexcnt.toNat = 1440 ∧ s.modulusOf k ≤ 1) ∧
    (t.status.err = .malformedRecord ↔ i = .decode ∧ s.ptLen.toNat ≠ 640)

/-- Every command but PUSH_HEX run a second time leaves exactly the state the first run left. It follows from each command's own
rule (R122, R123, R145, R147, R186, R210) and from its reads and writes (20_memory.md R76); the source asks it of decryption and
of decoding (00_scope.md R15, 95_test_vectors.md S9, S10). -/
def Obligations.RepeatedCommandChangesNothing : Prop :=
  ∀ (i : Instr) (s : State), (∀ c, i ≠ .pushHex c) → ∃ t, exec i s = .next t ∧ exec i t = .next t

/-! The input normalizer. -/

/-- 40_input_normalizer.md R122: NOP. -/
def Obligations.NopOnlyCompletes : Prop :=
  encode .nop = 0x00000000#32 ∧
  (∀ (ks : Nat) (x : Byte), x ≠ 0#8 → decode ks (0#16 ++ x ++ 0#8) = .illegal .argNotZero) ∧
  (∀ s : State, exec .nop s = .next { s with pending := none, status := s.status.completed .none }) ∧
  (∀ s : State, s.status.busy = true → ∃ r, busWrite .w32 0x004 (encode .nop) s =
    { s with status := { s.status with overrun := true }, response := some r }) ∧
  (∃ t, exec .nop (State.reset.accept (encode .nop)) = .next t ∧ statusWord t.status = 0x00000002#32)

/-- 40_input_normalizer.md R123: CLEAR_INPUT. -/
def Obligations.ClearInputEmptiesInput : Prop :=
  encode .clearInput = 0x00000001#32 ∧
  ∀ s : State, ∃ m, exec .clearInput s = .next
      { s with hexcnt := 0#16, mem := m, pending := none, status := s.status.completed .none } ∧
    (∀ a, m.read a = if inCt a then 0#8 else s.mem.read a) ∧
    (∀ k t, s.legalSlot k → exec .clearInput s = .next t → ∃ u, exec (.decrypt k) t = .next u ∧
      u.status.err = .invalidInput)

/-- 40_input_normalizer.md R120, R121: the hex digits and their values. -/
def Obligations.HexDigitsAndValues : Prop :=
  ∀ c : Byte,
    (isHex c = true ↔ (0x30 ≤ c.toNat ∧ c.toNat ≤ 0x39) ∨ (0x41 ≤ c.toNat ∧ c.toNat ≤ 0x46) ∨
      (0x61 ≤ c.toNat ∧ c.toNat ≤ 0x66)) ∧
    (0x30 ≤ c.toNat → c.toNat ≤ 0x39 → hexval c = c.toNat - 0x30) ∧
    (0x41 ≤ c.toNat → c.toNat ≤ 0x46 → hexval c = c.toNat - 0x41 + 10 ∧ hexval (c + 0x20#8) = hexval c) ∧
    (0x61 ≤ c.toNat → c.toNat ≤ 0x66 → hexval c = c.toNat - 0x61 + 10) ∧
    (isHex c = true → hexval c < 16)

/-- 40_input_normalizer.md R124: PUSH_HEX c, for every byte and every count. The byte written is CT[HEXCNT div 2]; no other
byte changes. On states whose odd byte has a low nibble the sum is taken at the byte's width (log 9). -/
def Obligations.PushHexPacksDigit : Prop :=
  ∀ (c : Byte) (s : State), ∃ n m, exec (.pushHex c) s = .next
      { s with hexcnt := n, mem := m, pending := none, status := s.status.completed .none } ∧
    (isHex c = false → n = s.hexcnt ∧ m = s.mem) ∧
    (isHex c = true →
      n.toNat = min (s.hexcnt.toNat + 1) 0xFFFF ∧
      (1440 ≤ s.hexcnt.toNat → m = s.mem) ∧
      (s.hexcnt.toNat < 1440 →
        (∀ a, a ≠ 0x2000 + s.hexcnt.toNat / 2 → m.read a = s.mem.read a) ∧
        (s.hexcnt.toNat % 2 = 0 → (m.read (0x2000 + s.hexcnt.toNat / 2)).toNat = hexval c * 16) ∧
        (s.hexcnt.toNat % 2 = 1 → m.read (0x2000 + s.hexcnt.toNat / 2) =
          s.mem.read (0x2000 + s.hexcnt.toNat / 2) + BitVec.ofNat 8 (hexval c))))

/-- 40_input_normalizer.md R125: pushing any byte string from HEXCNT = 0 leaves the count and the bytes of its hex digits, and
the source's two conditions on the cleaned text are the one test HEXCNT = 1440. -/
def Obligations.PushedTextIsNormalised : Prop :=
  ∀ (text : List Byte) (s : State), s.hexcnt = 0#16 →
    ∃ t, execAll (text.map .pushHex) s = .next t ∧
      t.hexcnt.toNat = min (text.filter isHex).length 0xFFFF ∧
      ((text.filter isHex).length = 1440 → ∀ j, j < 720 →
        (t.ctByte j).toNat = 16 * hexval ((text.filter isHex).getD (2 * j) 0#8)
          + hexval ((text.filter isHex).getD (2 * j + 1) 0#8)) ∧
      ((text.filter isHex).length % 2 = 0 ∧ (text.filter isHex).length / 2 = 720 ↔ t.hexcnt.toNat = 1440) ∧
      (∀ a, ¬ inCt a → t.mem.read a = s.mem.read a)

/-! The block cryptor. -/

/-- 41_block_cryptor.md R140, R141: the big-endian conversions, their formulas, that they are inverse, and that the engine asks
for no value outside their domain. -/
def Obligations.BigEndianConversions : Prop :=
  (∀ bs : List Byte,
    intBE bs = ((List.range bs.length).map fun i => (bs.getD i 0#8).toNat * 256 ^ (bs.length - 1 - i)).sum ∧
    intBE bs < 2 ^ (8 * bs.length) ∧
    bytesBE (intBE bs) bs.length = bs) ∧
  (∀ x w : Nat, x < 2 ^ (8 * w) →
    (bytesBE x w).length = w ∧
    (∀ i, i < w → ((bytesBE x w).getD i 0#8).toNat = x / 256 ^ (w - 1 - i) % 256) ∧
    intBE (bytesBE x w) = x ∧
    (∀ m, m ≤ w → x < 2 ^ (8 * (w - m)) → ∀ i, i < m → (bytesBE x w).getD i 0#8 = 0#8)) ∧
  (∀ (b e : Nat) (n : Big), 1 ≤ n.toNat → modpow b e n.toNat < 2 ^ (8 * 128))

/-- 41_block_cryptor.md R142: square-and-multiply gives exactly b^e mod n. -/
def Obligations.ModpowIsPowerMod : Prop :=
  ∀ b e n : Nat, 1 ≤ n → modpow b e n = b ^ e % n

/-- 41_block_cryptor.md R143: the corner cases of modpow, and that every command checks n before it calls it. -/
def Obligations.ModpowCornerCases : Prop :=
  (∀ b n, 1 ≤ n → modpow b 0 n = 1 % n) ∧
  (∀ b n, 2 ≤ n → modpow b 0 n = 1) ∧
  (∀ b e, modpow b e 1 = 0) ∧
  (∀ b e n, 1 ≤ n → n ≤ b → modpow b e n = b ^ e % n) ∧
  modpow 10 3 7 = 6 ∧
  (∀ e n, 1 ≤ n → 1 ≤ e → modpow 0 e n = 0) ∧
  (∀ n, 1 ≤ n → modpow 0 0 n = 1 % n) ∧
  (∀ e n, 1 ≤ n → modpow 1 e n = 1 % n) ∧
  (∀ b n, 1 ≤ n → modpow b 1 n = b % n) ∧
  (∀ s : State, s.opMod.toNat = 0 → ∃ t, exec .modpow s = .next t ∧ t.status.err = .crypto) ∧
  (∀ hexcnt c n e, n ≤ 1 → decryptFn hexcnt c n e = .error .invalidInput ∨ decryptFn hexcnt c n e = .error .crypto)

/-- 41_block_cryptor.md R144: every result fits its block, with leading zero bytes kept. -/
def Obligations.ResultFitsBlock : Prop :=
  ∀ b e n : Nat, 1 ≤ n → n ≤ 2 ^ 1024 →
    modpow b e n < n ∧
    (bytesBE (modpow b e n) 128).length = 128 ∧
    intBE (bytesBE (modpow b e n) 128) = modpow b e n ∧
    (modpow b e n < 2 ^ 120 → ∀ i, i < 113 → (bytesBE (modpow b e n) 128).getD i 0#8 = 0#8)

/-- 41_block_cryptor.md R145: MODPOW. -/
def Obligations.ModpowCommandResult : Prop :=
  encode .modpow = 0x00000010#32 ∧
  (∀ s : State, s.opMod.toNat = 0 → exec .modpow s = .next
    { s with opRes := 0#1024, pending := none, status := s.status.completed .crypto }) ∧
  (∀ s : State, s.opMod.toNat ≠ 0 → ∃ r : Big,
    r.toNat = s.opBase.toNat ^ s.opExp.toNat % s.opMod.toNat ∧
    exec .modpow s = .next { s with opRes := r, pending := none, status := s.status.completed .none }) ∧
  modpow 4 13 497 = 445

/-- 41_block_cryptor.md R146, R147: a DECRYPT that succeeds. Block b of PT is block b of CT raised to e mod n; the record is
cleared; no byte outside PT changes. -/
def Obligations.DecryptWritesPlaintext : Prop :=
  ∀ (s : State) (k : Byte), s.legalSlot k → s.hexcnt.toNat = 1440 → 1 < s.modulusOf k →
    ∃ m, exec (.decrypt k) s = .next
        { s with
          mem := m, ptLen := 640#16, recValid := false, recComplete := false
          fieldValid := Vector.replicate 32 false, fv := Vector.replicate 32 FieldValue.sentinel
          pending := none, status := s.status.completed .none } ∧
      (∀ b, b < 5 → m.load (0x2400 + 128 * b) 128 =
        bytesBE (intBE (s.mem.load (0x2006 + 128 * b) 128) ^ s.exponentOf k % s.modulusOf k) 128) ∧
      (∀ a, ¬ inPt a → m.read a = s.mem.read a)

/-- 60_exceptions.md R224, R225, R226, R230: a DECRYPT or DECRYPT_DECODE that fails. The length gate comes before the key check;
PT is zero, PT_LEN 0, the record cleared, nothing else changed. -/
def Obligations.FailedDecryptLeavesNoOutput : Prop :=
  ∀ (s : State) (k : Byte) (i : Instr), (i = .decrypt k ∨ i = .decryptDecode k) → s.legalSlot k →
    (s.hexcnt.toNat ≠ 1440 ∨ s.modulusOf k ≤ 1) →
    ∃ m, exec i s = .next
        { s with
          mem := m, ptLen := 0#16, recValid := false, recComplete := false
          fieldValid := Vector.replicate 32 false, fv := Vector.replicate 32 FieldValue.sentinel
          pending := none
          status := s.status.completed (if s.hexcnt.toNat ≠ 1440 then .invalidInput else .crypto) } ∧
      (∀ a, m.read a = if inPt a then 0#8 else s.mem.read a)

/-- 41_block_cryptor.md R148: a failed DECRYPT never presents ciphertext as plaintext, and success and failure are told apart by
ERR and by PT_LEN. -/
def Obligations.NoCiphertextSubstituted : Prop :=
  ∀ (s : State) (k : Byte), s.legalSlot k → ∃ t, exec (.decrypt k) s = .next t ∧
    ((t.status.err = .none ∧ t.ptLen = 640#16) ∨
     (t.status.err ≠ .none ∧ t.ptLen = 0#16 ∧ ∀ i, i < 640 → t.ptByte i = 0#8))

/-- 41_block_cryptor.md R149: a block's output depends on that block's bytes and on (n, e) alone. -/
def Obligations.BlocksAreIndependent : Prop :=
  ∀ (s s' : State) (k k' : Byte) (b : Nat), b < 5 → s.legalSlot k → s'.legalSlot k' →
    s.hexcnt.toNat = 1440 → s'.hexcnt.toNat = 1440 →
    s.modulusOf k = s'.modulusOf k' → s.exponentOf k = s'.exponentOf k' → 1 < s.modulusOf k →
    (∀ i, i < 128 → s.ctByte (6 + 128 * b + i) = s'.ctByte (6 + 128 * b + i)) →
    ∃ t t', exec (.decrypt k) s = .next t ∧ exec (.decrypt k') s' = .next t' ∧
      ∀ i, i < 128 → t.ptByte (128 * b + i) = t'.ptByte (128 * b + i)

/-- 41_block_cryptor.md R150: the header CT[0 +: 6] and the trailer CT[646 +: 74] enter no output of either decrypting command,
and stay in CT. -/
def Obligations.HeaderAndTrailerHaveNoEffect : Prop :=
  ∀ (s : State) (m : Memory) (k : Byte) (i : Instr), (i = .decrypt k ∨ i = .decryptDecode k) → s.legalSlot k →
    (∀ a, 0x2006 ≤ a → a < 0x2286 → m.read a = s.mem.read a) →
    ∃ t t', exec i s = .next t ∧ exec i { s with mem := m } = .next t' ∧
      t'.status = t.status ∧ t'.ptLen = t.ptLen ∧ (∀ j, j < 640 → t'.ptByte j = t.ptByte j) ∧
      t'.recValid = t.recValid ∧ t'.recComplete = t.recComplete ∧ t'.fieldValid = t.fieldValid ∧ t'.fv = t.fv ∧
      (∀ j, j < 720 → t'.ctByte j = m.read (0x2000 + j))

/-! The record decoder. -/

/-- 42_record_decoder.md R174: trim_fill satisfies the rule's own equation, and what it keeps is a prefix of its argument whose
dropped rest is fill. -/
def Obligations.TrimFillEquation : Prop :=
  ∀ bs : List Byte,
    trimFill bs = (if 0 < bs.length ∧ (bs.getD (bs.length - 1) 0xFF#8 = 0x20#8 ∨ bs.getD (bs.length - 1) 0xFF#8 = 0x00#8)
      then trimFill (bs.take (bs.length - 1)) else bs) ∧
    (∃ fill, bs = trimFill bs ++ fill ∧ ∀ b ∈ fill, b = 0x20#8 ∨ b = 0x00#8)

/-- 42_record_decoder.md R175, R176: the raw bytes of a slot by its RULE. FIXED is the trimmed window and ignores TERM; DELIM is
the window up to its first terminator, or all of it. -/
def Obligations.RawBytesByRule : Prop :=
  ∀ (f : FieldEntry) (p : List Byte),
    (f.rule = false → rawField f p = trimFill ((p.drop f.offset.toNat).take f.width.toNat) ∧
      ∀ x, rawField { f with term := x } p = rawField f p) ∧
    (f.rule = true → ∃ j, j ≤ f.width.toNat ∧ rawField f p = (p.drop f.offset.toNat).take j ∧
      (∀ x, x < j → p[f.offset.toNat + x]? ≠ some f.term) ∧
      (j < f.width.toNat → f.offset.toNat + j < p.length → p[f.offset.toNat + j]? = some f.term))

/-- 42_record_decoder.md R177, R178: the TEXT and NUMERIC checks, and that the value kept is the raw bytes. -/
def Obligations.TextAndNumericChecks : Prop :=
  ∀ raw : List Byte,
    (kindOk 0#2 raw = true ↔ ∀ b ∈ raw, 0x20 ≤ b.toNat ∧ b.toNat ≤ 0x7E) ∧
    (kindOk 1#2 raw = true ↔ 1 ≤ raw.length ∧ ∀ b ∈ raw, 0x30 ≤ b.toNat ∧ b.toNat ≤ 0x39) ∧
    kindOk 0#2 [] = true ∧
    (∀ (f : FieldEntry) (p v : List Byte), extract f p = .value v → v = rawField f p)

/-- 42_record_decoder.md R179, R180: the DATE check accepts exactly eight ASCII digits YYYYMMDD that name a day of the Gregorian
calendar, and keeps them. -/
def Obligations.DateCheckIsTheCalendar : Prop :=
  (∀ y m : Nat, 1 ≤ m → m ≤ 12 →
    daysInMonth y m = if m ∈ [1, 3, 5, 7, 8, 10, 12] then 31 else if m ∈ [4, 6, 9, 11] then 30
      else if (y % 4 = 0 ∧ y % 100 ≠ 0) ∨ y % 400 = 0 then 29 else 28) ∧
  (∀ raw : List Byte, kindOk 2#2 raw = true ↔
    ∃ y1 y2 y3 y4 m1 m2 d1 d2 : Nat,
      y1 ≤ 9 ∧ y2 ≤ 9 ∧ y3 ≤ 9 ∧ y4 ≤ 9 ∧ m1 ≤ 9 ∧ m2 ≤ 9 ∧ d1 ≤ 9 ∧ d2 ≤ 9 ∧
      raw = [y1, y2, y3, y4, m1, m2, d1, d2].map (fun d => BitVec.ofNat 8 (0x30 + d)) ∧
      1 ≤ 10 * m1 + m2 ∧ 10 * m1 + m2 ≤ 12 ∧ 1 ≤ 10 * d1 + d2 ∧
      10 * d1 + d2 ≤ daysInMonth (1000 * y1 + 100 * y2 + 10 * y3 + y4) (10 * m1 + m2)) ∧
  (∀ (f : FieldEntry) (p v : List Byte), f.kind = 2#2 → extract f p = .value v → v = rawField f p ∧ v.length = 8)

/-- 42_record_decoder.md R183, R184, R186: a DECODE of a 640-byte plaintext. Each slot holds exactly the value its extraction
gives, padded with zero bytes, or the sentinel; nothing else changes. -/
def Obligations.DecodeFillsRecord : Prop :=
  ∀ s : State, s.ptLen.toNat = 640 → ∃ c valid values,
    exec .decode s = .next
      { s with
        recValid := true, recComplete := c, fieldValid := valid, fv := values
        pending := none, status := s.status.completed .none } ∧
    (∀ (i : Fin 32) (v : List Byte), slotResult s.ft[i.val] s.pt = .value v →
      valid[i.val] = true ∧ v.length ≤ 64 ∧ values[i.val].len.val = v.length ∧
      ∀ j : Fin 64, values[i.val].data[j.val] = v.getD j.val 0#8) ∧
    (∀ i : Fin 32, (∀ v, slotResult s.ft[i.val] s.pt ≠ .value v) →
      valid[i.val] = false ∧ values[i.val] = FieldValue.sentinel)

/-- 60_exceptions.md R228 and R224: DECODE raises MalformedRecordError when PT_LEN ≠ 640 and leaves no partial record. -/
def Obligations.DecodeOfWrongLength : Prop :=
  ∀ s : State, s.ptLen.toNat ≠ 640 → exec .decode s = .next
    { s with
      recValid := false, recComplete := false
      fieldValid := Vector.replicate 32 false, fv := Vector.replicate 32 FieldValue.sentinel
      pending := none, status := s.status.completed .malformedRecord }

/-- 42_record_decoder.md R185: after a successful decode, by DECODE or by DECRYPT_DECODE, COMPLETE is 1 exactly when every
enabled slot decoded and every record field has an enabled slot. -/
def Obligations.CompleteFlagExactly : Prop :=
  ∀ (s : State) (c : Instr),
    ((c = .decode ∧ s.ptLen.toNat = 640) ∨
      ∃ k, c = .decryptDecode k ∧ s.legalSlot k ∧ s.hexcnt.toNat = 1440 ∧ 1 < s.modulusOf k) →
    ∃ t, exec c s = .next t ∧ t.recValid = true ∧
    (t.recComplete = true ↔
      (∀ i : Fin 32, s.ft[i.val].en = true → t.fieldValid[i.val] = true) ∧
      (∀ f, 1 ≤ f → f ≤ 18 → ∃ i : Fin 32, s.ft[i.val].en = true ∧ s.ft[i.val].fieldId.toNat = f)) ∧
    ((∀ i : Fin 32, s.ft[i.val].en = false) → t.recComplete = false)

/-- 60_exceptions.md R229, 42_record_decoder.md R172, R173: a slot is valid exactly when it is enabled, can be located and its
bytes pass its kind's check; a failing enabled slot takes the sentinel and clears COMPLETE, and the command still succeeds. -/
def Obligations.FieldErrorsStayInTheirSlot : Prop :=
  ∀ (s : State) (i : Fin 32), s.ptLen.toNat = 640 → ∃ t, exec .decode s = .next t ∧ t.status.err = .none ∧
    (t.fieldValid[i.val] = true ↔ s.ft[i.val].en = true ∧ canLocate s.ft[i.val] ∧
      kindOk s.ft[i.val].kind (rawField s.ft[i.val] s.pt) = true) ∧
    (t.fieldValid[i.val] = false → t.fv[i.val] = FieldValue.sentinel) ∧
    (s.ft[i.val].en = true → t.fieldValid[i.val] = false → t.recComplete = false)

/-- 42_record_decoder.md R171, R173, R188: a slot's result depends on its own table entry and on the bytes of its own window,
and on nothing else of the state. -/
def Obligations.SlotsAreIndependent : Prop :=
  ∀ (s s' : State) (i : Fin 32), s.ptLen.toNat = 640 → s'.ptLen.toNat = 640 → s.ft[i.val] = s'.ft[i.val] →
    (∀ x, s.ft[i.val].offset.toNat ≤ x → x < s.ft[i.val].offset.toNat + s.ft[i.val].width.toNat →
      s.ptByte x = s'.ptByte x) →
    ∃ t t', exec .decode s = .next t ∧ exec .decode s' = .next t' ∧
      t.fv[i.val] = t'.fv[i.val] ∧ t.fieldValid[i.val] = t'.fieldValid[i.val]

/-- 42_record_decoder.md R187: no fabricated data. After either decoding command, whether it succeeds or fails, every byte of
every FV[i].DATA is the byte of PT at its own place in the slot's window, or a zero byte. -/
def Obligations.NoFabricatedData : Prop :=
  ∀ (s : State) (c : Instr), (c = .decode ∨ ∃ k, c = .decryptDecode k ∧ s.legalSlot k) → ∃ t, exec c s = .next t ∧
    ∀ (i : Fin 32) (j : Fin 64), t.fv[i.val].data[j.val] = 0#8 ∨
      (s.ft[i.val].offset.toNat + j.val < 640 ∧
        t.fv[i.val].data[j.val] = t.ptByte (s.ft[i.val].offset.toNat + j.val))

/-- 42_record_decoder.md R190: the bytes "ZA" at any two places of a 640-byte plaintext fill the two country fields exactly. -/
def Obligations.CountryCodesDecode : Prop :=
  ∀ (s : State) (i : Fin 32) (o : Nat), s.ptLen.toNat = 640 → o + 2 ≤ 640 →
    s.ptByte o = 0x5A#8 → s.ptByte (o + 1) = 0x41#8 →
    s.ft[i.val].en = true → s.ft[i.val].rule = false → s.ft[i.val].kind = 0#2 → s.ft[i.val].offset.toNat = o →
    s.ft[i.val].width.toNat = 2 → (s.ft[i.val].fieldId = 5#8 ∨ s.ft[i.val].fieldId = 6#8) →
    ∃ t, exec .decode s = .next t ∧ t.fieldValid[i.val] = true ∧ t.fv[i.val].len.val = 2 ∧
      t.fv[i.val].data[0] = 0x5A#8 ∧ t.fv[i.val].data[1] = 0x41#8 ∧ ∀ j : Fin 64, 2 ≤ j.val → t.fv[i.val].data[j.val] = 0#8

/-! Sequencing. -/

/-- 43_sequencing.md R210: a DECRYPT_DECODE that succeeds writes the plaintext and the record decoded from it in one step. -/
def Obligations.DecryptDecodeDoesBoth : Prop :=
  ∀ (s : State) (k : Byte), s.legalSlot k → s.hexcnt.toNat = 1440 → 1 < s.modulusOf k →
    ∃ m c valid values, exec (.decryptDecode k) s = .next
        { s with
          mem := m, ptLen := 640#16, recValid := true, recComplete := c, fieldValid := valid, fv := values
          pending := none, status := s.status.completed .none } ∧
      (∀ b, b < 5 → m.load (0x2400 + 128 * b) 128 =
        bytesBE (intBE (s.mem.load (0x2006 + 128 * b) 128) ^ s.exponentOf k % s.modulusOf k) 128) ∧
      (∀ a, ¬ inPt a → m.read a = s.mem.read a) ∧
      (∀ (i : Fin 32) (v : List Byte), slotResult s.ft[i.val] (m.load 0x2400 640) = .value v →
        valid[i.val] = true ∧ values[i.val].len.val = v.length ∧
        ∀ j : Fin 64, values[i.val].data[j.val] = v.getD j.val 0#8) ∧
      (∀ i : Fin 32, (∀ v, slotResult s.ft[i.val] (m.load 0x2400 640) ≠ .value v) →
        valid[i.val] = false ∧ values[i.val] = FieldValue.sentinel) ∧
      (c = true ↔ (∀ i : Fin 32, s.ft[i.val].en = true → valid[i.val] = true) ∧
        (∀ f, 1 ≤ f → f ≤ 18 → ∃ i : Fin 32, s.ft[i.val].en = true ∧ s.ft[i.val].fieldId.toNat = f))

/-- 43_sequencing.md R211: DECRYPT_DECODE k leaves the state that DECRYPT k followed by DECODE leaves, but for ERR: after a
failed decryption the sequence ends with MALFORMED_RECORD and the one command with the decryption's error. -/
def Obligations.DecryptDecodeEqualsSequence : Prop :=
  ∀ (s : State) (k : Byte), s.legalSlot k →
    ∃ t u, execAll [.decrypt k, .decode] s = .next t ∧ exec (.decryptDecode k) s = .next u ∧
      u = { t with status := { t.status with err := u.status.err } } ∧
      (u.status.err = .none → t.status.err = .none) ∧
      (u.status.err ≠ .none → t.status.err = .malformedRecord ∧
        ∃ v, exec (.decrypt k) s = .next v ∧ v.status.err = u.status.err)

/-! The window. -/

/-- 10_state.md R23: a write to CMD is accepted at once while idle, dropped with OVERRUN while busy, and CMD reads 0.
That an acceptance also copies CTRL into ctrlAtAcceptance is the model's own way to answer the reads of
20_memory.md R68 (log 17). -/
def Obligations.CommandAcceptance : Prop :=
  ∀ (s : State) (w : Word) (rest : List Event), s.schedule = .write .w32 (s.cfg.base + 0x004) w :: rest →
    (s.status.busy = false → step s = .next
      { s with
        schedule := rest, pending := some w, status := { s.status with busy := true, done := false, err := .none }
        ctrlAtAcceptance := s.ctrl, response := some { busError := false, data := none } }) ∧
    (s.status.busy = true → step s = .next
      { s with
        schedule := rest, status := { s.status with overrun := true }
        response := some { busError := false, data := none } }) ∧
    readOffset s 0x004 = 0#32

/-- 70_reset_and_hazards.md R266, 10_state.md R27, R28, R47 and 20_memory.md R65: while busy, a write to a protected register is
dropped and sets OVERRUN, and LOCK_VIOLATION stays as it was but for a locked key write, which is left to KeyLockHolds; writes to
STATUS and CTRL take effect; read-only and unmapped offsets ignore writes; and no write changes what a command reads. That a
write to a reserved offset of KEY or FV, or of an absent slot, raises no flag while busy is the model's reading (log 6). -/
def Obligations.WritesWhileBusy : Prop :=
  ∀ (s : State) (off : Nat) (v : Word) (rest : List Event), s.cfg.wf = true → s.status.busy = true →
    s.schedule = .write .w32 (s.cfg.base + off) v :: rest →
    ((off = 0x004 ∨ isGuardedOffset off ∨ (isKeyOffset s.cfg.keySlots off ∧ s.ctrl.keyLock = false)) → step s = .next
      { s with
        schedule := rest, status := { s.status with overrun := true }
        response := some { busError := false, data := none } }) ∧
    (isKeyOffset s.cfg.keySlots off → ∃ locked, step s = .next
      { s with
        schedule := rest, status := { s.status with overrun := true, lockViolation := locked }
        response := some { busError := false, data := none } }) ∧
    (off = 0x008 → step s = .next
      { s with
        schedule := rest, status := statusAfterWrite s.status v
        response := some { busError := false, data := none } }) ∧
    (off = 0x00C → step s = .next
      { s with
        schedule := rest, ctrl := ctrlAfterWrite s.ctrl v
        response := some { busError := false, data := none } }) ∧
    (isReadOnlyOffset off ∨ isUnmappedOffset s.cfg.keySlots off → step s = .next
      { s with schedule := rest, response := some { busError := false, data := none } })

/-- 10_state.md R25 to R30: what a write to STATUS clears and what a write to CTRL sets, whatever the state. -/
def Obligations.StatusAndCtrlWrites : Prop :=
  ∀ (s : State) (off : Nat) (v : Word) (rest : List Event), s.schedule = .write .w32 (s.cfg.base + off) v :: rest →
    (off = 0x008 → step s = .next
      { s with
        schedule := rest
        status :=
          { s.status with
            done := s.status.done && !v.getLsbD 1
            overrun := s.status.overrun && !v.getLsbD 8
            lockViolation := s.status.lockViolation && !v.getLsbD 9 }
        response := some { busError := false, data := none } }) ∧
    (off = 0x00C → step s = .next
      { s with
        schedule := rest, ctrl := { irqEn := v.getLsbD 0, keyLock := s.ctrl.keyLock || v.getLsbD 1 }
        response := some { busError := false, data := none } })

/-- 10_state.md R30 and 70_reset_and_hazards.md R265: while KEY_LOCK is 1 no step but a reset changes a key or the lock, and a
key write is dropped and sets LOCK_VIOLATION; while idle it leaves OVERRUN as it was (R27), and OVERRUN after one while busy is
left to WritesWhileBusy. -/
def Obligations.KeyLockHolds : Prop :=
  (∀ s s' : State, s.ctrl.keyLock = true → (∀ rest, s.schedule ≠ .reset :: rest) → step s = .next s' →
    s'.keys = s.keys ∧ s'.ctrl.keyLock = true) ∧
  (∀ (s : State) (off : Nat) (v : Word) (rest : List Event), s.cfg.wf = true → s.ctrl.keyLock = true →
    isKeyOffset s.cfg.keySlots off → s.schedule = .write .w32 (s.cfg.base + off) v :: rest →
    (s.status.busy = false → step s = .next
      { s with
        schedule := rest, status := { s.status with lockViolation := true }
        response := some { busError := false, data := none } }) ∧
    ∃ dropped, step s = .next
      { s with
        schedule := rest, status := { s.status with overrun := dropped, lockViolation := true }
        response := some { busError := false, data := none } })

/-- 20_memory.md R64: an access that is not a 32-bit one at a multiple of 4 answers a bus error, a read with data 0, and changes
no state of the block. -/
def Obligations.MalformedAccessHasNoEffect : Prop :=
  ∀ (s : State) (size : AccessSize) (off : Nat) (v : Word) (rest : List Event), off < 0x5000 →
    (size ≠ .w32 ∨ off % 4 ≠ 0) →
    (s.schedule = .read size (s.cfg.base + off) :: rest → step s = .next
      { s with schedule := rest, response := some { busError := true, data := some 0#32 } }) ∧
    (s.schedule = .write size (s.cfg.base + off) v :: rest → step s = .next
      { s with schedule := rest, response := some { busError := true, data := none } })

/-- 20_memory.md R63, R66: an aligned 32-bit read of any offset of the window answers its register and changes nothing of the
block. The words of the registers are 10_state.md's: ID (R22), CMD (R23), STATUS (R24 to R28), CTRL of an idle block (R29, R30),
HEXCNT (R31), PT_LEN (R38), REC_STATUS (R39), FIELD_VALID (R40), PARAMS (R32), VERSION_ID (R33), FT[i] (R41, R42), FV[i].LEN
(R44). ByteLanesAreLittleEndian and BigRegistersAreWordLittleEndian give the others. -/
def Obligations.ReadsHaveNoSideEffect : Prop :=
  ∀ s : State,
    (∀ (off : Nat) (rest : List Event), off < 0x5000 → off % 4 = 0 →
      s.schedule = .read .w32 (s.cfg.base + off) :: rest → step s = .next
        { s with schedule := rest, response := some { busError := false, data := some (readOffset s off) } }) ∧
    readOffset s 0x000 = 0x5341444C#32 ∧
    readOffset s 0x004 = 0#32 ∧
    (readOffset s 0x008).toNat = s.status.busy.toNat + 2 * s.status.done.toNat
      + 4 * (if s.status.err = .invalidInput then 1 else if s.status.err = .crypto then 2
          else if s.status.err = .malformedRecord then 3 else if s.status.err = .illegalCommand then 4 else 0)
      + 2 ^ 8 * s.status.overrun.toNat + 2 ^ 9 * s.status.lockViolation.toNat ∧
    (s.status.busy = false → (readOffset s 0x00C).toNat = s.ctrl.irqEn.toNat + 2 * s.ctrl.keyLock.toNat) ∧
    (readOffset s 0x010).toNat = s.hexcnt.toNat ∧
    (readOffset s 0x014).toNat = s.ptLen.toNat ∧
    (readOffset s 0x018).toNat = s.recValid.toNat + 2 * s.recComplete.toNat ∧
    (∀ i : Fin 32, (readOffset s 0x01C).toNat / 2 ^ i.val % 2 = s.fieldValid[i.val].toNat) ∧
    (s.cfg.wf = true → (readOffset s 0x020).toNat = s.cfg.keySlots + 2 ^ 8 * 32 + 2 ^ 16 * 64 + 2 ^ 24 * 5) ∧
    (∀ k, k < s.cfg.keySlots → k < 8 → readOffset s (0x1000 + 0x200 * k) = (s.key k).versionId) ∧
    (∀ i : Fin 32,
      (readOffset s (0x3000 + 8 * i.val)).toNat = s.ft[i.val].offset.toNat + 2 ^ 16 * s.ft[i.val].width.toNat
        + 2 ^ 24 * s.ft[i.val].term.toNat ∧
      (readOffset s (0x3004 + 8 * i.val)).toNat = s.ft[i.val].fieldId.toNat + 2 ^ 8 * s.ft[i.val].elem.toNat
        + 2 ^ 12 * s.ft[i.val].kind.toNat + 2 ^ 14 * s.ft[i.val].rule.toNat + 2 ^ 15 * s.ft[i.val].en.toNat ∧
      (readOffset s (0x4000 + 0x80 * i.val)).toNat = s.fv[i.val].len.val)

/-- 20_memory.md R65, 10_state.md R47: unmapped and reserved offsets read 0 and ignore writes; read-only registers ignore
writes; neither raises a flag or a bus error. That a write to a reserved offset of KEY or FV, or of an absent slot, raises no flag
even while busy or locked is the model's reading (log 6). -/
def Obligations.UnmappedAndReadOnlyOffsets : Prop :=
  ∀ (s : State) (off : Nat) (v : Word),
    (isUnmappedOffset s.cfg.keySlots off →
      busRead .w32 off s = { s with response := some { busError := false, data := some 0#32 } }) ∧
    (isUnmappedOffset s.cfg.keySlots off ∨ isReadOnlyOffset off →
      busWrite .w32 off v s = { s with response := some { busError := false, data := none } })

/-- 10_state.md R33, R34, R37, R38, R41, R42: an idle, unlocked block keeps a write to a read-write register: the register reads
back what it keeps of the word, every other aligned offset reads as before, and each field of a field table entry takes its own
bits of the word. -/
def Obligations.WrittenWordReadsBack : Prop :=
  (∀ (s : State) (off : Nat) (v : Word), s.configInv → s.status.busy = false → s.ctrl.keyLock = false →
    (isGuardedOffset off ∨ isKeyOffset s.cfg.keySlots off) →
    readOffset (busWrite .w32 off v s) off = v &&& keptBits off ∧
    ∀ off', off' % 4 = 0 → off' ≠ off → readOffset (busWrite .w32 off v s) off' = readOffset s off') ∧
  (∀ (s : State) (i : Fin 32) (v : Word), s.status.busy = false → ∃ f : FieldEntry,
    busWrite .w32 (0x3000 + 8 * i.val) v s =
      { s with ft := s.ft.set i.val f, response := some { busError := false, data := none } } ∧
    f.offset.toNat = v.toNat % 2 ^ 16 ∧ f.width.toNat = v.toNat / 2 ^ 16 % 2 ^ 8 ∧ f.term.toNat = v.toNat / 2 ^ 24 ∧
    f.fieldId = s.ft[i.val].fieldId ∧ f.elem = s.ft[i.val].elem ∧ f.kind = s.ft[i.val].kind ∧
    f.rule = s.ft[i.val].rule ∧ f.en = s.ft[i.val].en) ∧
  (∀ (s : State) (i : Fin 32) (v : Word), s.status.busy = false → ∃ f : FieldEntry,
    busWrite .w32 (0x3004 + 8 * i.val) v s =
      { s with ft := s.ft.set i.val f, response := some { busError := false, data := none } } ∧
    f.offset = s.ft[i.val].offset ∧ f.width = s.ft[i.val].width ∧ f.term = s.ft[i.val].term ∧
    f.fieldId.toNat = v.toNat % 2 ^ 8 ∧ f.elem.toNat = v.toNat / 2 ^ 8 % 2 ^ 4 ∧ f.kind.toNat = v.toNat / 2 ^ 12 % 2 ^ 2 ∧
    f.rule.toNat = v.toNat / 2 ^ 14 % 2 ∧ f.en.toNat = v.toNat / 2 ^ 15 % 2)

/-- 20_memory.md R61: the byte lanes of the bus words of CT, PT and FV[i].DATA are little-endian. -/
def Obligations.ByteLanesAreLittleEndian : Prop :=
  ∀ s : State,
    (∀ w, w < 180 → (readOffset s (0x2000 + 4 * w)).toNat =
      (s.ctByte (4 * w)).toNat + 2 ^ 8 * (s.ctByte (4 * w + 1)).toNat + 2 ^ 16 * (s.ctByte (4 * w + 2)).toNat
        + 2 ^ 24 * (s.ctByte (4 * w + 3)).toNat) ∧
    (∀ w, w < 160 → (readOffset s (0x2400 + 4 * w)).toNat =
      (s.ptByte (4 * w)).toNat + 2 ^ 8 * (s.ptByte (4 * w + 1)).toNat + 2 ^ 16 * (s.ptByte (4 * w + 2)).toNat
        + 2 ^ 24 * (s.ptByte (4 * w + 3)).toNat) ∧
    (∀ (i : Fin 32) (w : Fin 16), (readOffset s (0x4000 + 0x80 * i.val + 0x40 + 4 * w.val)).toNat =
      (s.fv[i.val].data[4 * w.val]).toNat + 2 ^ 8 * (s.fv[i.val].data[4 * w.val + 1]).toNat
        + 2 ^ 16 * (s.fv[i.val].data[4 * w.val + 2]).toNat + 2 ^ 24 * (s.fv[i.val].data[4 * w.val + 3]).toNat)

/-- 20_memory.md R62: word j of a big-integer register holds bits [32j+31:32j]. -/
def Obligations.BigRegistersAreWordLittleEndian : Prop :=
  ∀ (s : State) (j : Fin 32),
    (readOffset s (0x800 + 4 * j.val)).toNat = s.opBase.toNat / 2 ^ (32 * j.val) % 2 ^ 32 ∧
    (readOffset s (0x880 + 4 * j.val)).toNat = s.opExp.toNat / 2 ^ (32 * j.val) % 2 ^ 32 ∧
    (readOffset s (0x900 + 4 * j.val)).toNat = s.opMod.toNat / 2 ^ (32 * j.val) % 2 ^ 32 ∧
    (readOffset s (0x980 + 4 * j.val)).toNat = s.opRes.toNat / 2 ^ (32 * j.val) % 2 ^ 32 ∧
    (∀ k, k < s.cfg.keySlots → k < 8 →
      (readOffset s (0x1000 + 0x200 * k + 0x080 + 4 * j.val)).toNat
        = (s.key k).modulus.toNat / 2 ^ (32 * j.val) % 2 ^ 32 ∧
      (readOffset s (0x1000 + 0x200 * k + 0x100 + 4 * j.val)).toNat
        = (s.key k).exponent.toNat / 2 ^ (32 * j.val) % 2 ^ 32)

/-- 20_memory.md R68: the acceptance of a command leaves what every register but STATUS reads as; no host access while busy
changes it, whatever it writes; and STATUS reads BUSY = 1, DONE = 0, ERR = 0 and the two sticky flags. Log 17 says where other
rules would have a read of CTRL differ. -/
def Obligations.ReadsWhileBusy : Prop :=
  (∀ s : State, s.handshakeInv → s.status.busy = true →
    (readOffset s 0x008).toNat = 1 + 2 ^ 8 * s.status.overrun.toNat + 2 ^ 9 * s.status.lockViolation.toNat) ∧
  (∀ (s : State) (w : Word), s.status.busy = false →
    ∀ off, off % 4 = 0 → off ≠ 0x008 → readOffset (busWrite .w32 0x004 w s) off = readOffset s off) ∧
  (∀ (s s' : State) (e : Event) (rest : List Event), s.status.busy = true → e.isAccess = true →
    s.schedule = e :: rest → step s = .next s' →
    s'.status.busy = true ∧ s'.pending = s.pending ∧
    ∀ off, off % 4 = 0 → off ≠ 0x008 → readOffset s' off = readOffset s off)

/-- 70_reset_and_hazards.md R266, R270 and 20_memory.md R73: no host access while busy changes what the running command will
compute. -/
def Obligations.RunningCommandIsShielded : Prop :=
  ∀ (s s' : State) (e : Event) (rest : List Event) (i : Instr), s.status.busy = true → e.isAccess = true →
    s.schedule = e :: rest → step s = .next s' →
    ∃ t t', exec i s = .next t ∧ exec i s' = .next t' ∧
      t'.status.err = t.status.err ∧ t'.hexcnt = t.hexcnt ∧ t'.opRes = t.opRes ∧ t'.mem = t.mem ∧ t'.ptLen = t.ptLen ∧
      t'.recValid = t.recValid ∧ t'.recComplete = t.recComplete ∧ t'.fieldValid = t.fieldValid ∧ t'.fv = t.fv

/-! Reset, interrupt, runs. -/

/-- 70_reset_and_hazards.md R260, R261: a reset at any time gives the whole reset state, a pending command is abandoned, and the
window then reads 0 everywhere but ID and PARAMS. That the launch's parameters and the later events stay is the model's choice
(log 8). -/
def Obligations.ResetGivesResetState : Prop :=
  ∀ (s : State) (rest : List Event), s.schedule = .reset :: rest → ∃ t, step s = .next t ∧
    t.pending = none ∧ statusWord t.status = 0#32 ∧ ctrlWord t.ctrl = 0#32 ∧ t.hexcnt = 0#16 ∧
    (∀ i, i < 720 → t.ctByte i = 0#8) ∧
    t.keys.length = s.cfg.keySlots ∧ (∀ k, t.key k = { versionId := 0#32, modulus := 0#1024, exponent := 0#1024 }) ∧
    t.opBase = 0#1024 ∧ t.opExp = 0#1024 ∧ t.opMod = 0#1024 ∧ t.opRes = 0#1024 ∧
    (∀ i, i < 640 → t.ptByte i = 0#8) ∧ t.ptLen = 0#16 ∧
    recStatusWord t = 0#32 ∧ fieldValidWord t.fieldValid = 0#32 ∧
    (∀ i : Fin 32, t.ft[i.val].w0 = 0#32 ∧ t.ft[i.val].w1 = 0#32 ∧ t.ft[i.val].en = false) ∧
    (∀ i : Fin 32, t.fv[i.val] = FieldValue.sentinel) ∧
    irq t = false ∧ t.cfg = s.cfg ∧ t.schedule = rest ∧
    readOffset t 0x000 = 0x5341444C#32 ∧ readOffset t 0x020 = paramsWord s.cfg ∧
    (∀ off, off % 4 = 0 → off ≠ 0x000 → off ≠ 0x020 → readOffset t off = 0#32)

/-- 70_reset_and_hazards.md R263: after reset a command without its set-up reports an error. -/
def Obligations.CommandsWithoutSetUpFail : Prop :=
  ∀ (c : Config) (k : Byte) (i : Instr), k.toNat < c.keySlots → (i = .decrypt k ∨ i = .decryptDecode k) →
    (∃ t, exec i (State.resetOf c) = .next t ∧ t.status.err = .invalidInput) ∧
    (∀ m, ∃ t, exec i { State.resetOf c with hexcnt := 1440#16, mem := m } = .next t ∧ t.status.err = .crypto) ∧
    (∃ t, exec .decode (State.resetOf c) = .next t ∧ t.status.err = .malformedRecord)

/-- 60_exceptions.md R232: irq is DONE and IRQ_EN, rises at every completion with IRQ_EN = 1, and falls at an acknowledgement,
at IRQ_EN = 0, at an acceptance and at a reset. -/
def Obligations.InterruptLevel : Prop :=
  (∀ s : State, irq s = true ↔ s.status.done = true ∧ s.ctrl.irqEn = true) ∧
  (∀ (s : State) (w : Word), s.pending = some w → ∃ t, completePending s = .next t ∧ irq t = s.ctrl.irqEn) ∧
  (∀ (s : State) (v : Word), v.getLsbD 1 = true → irq (busWrite .w32 0x008 v s) = false) ∧
  (∀ (s : State) (v : Word), v.getLsbD 0 = false → irq (busWrite .w32 0x00C v s) = false) ∧
  (∀ (s : State) (w : Word), s.status.busy = false → irq (busWrite .w32 0x004 w s) = false) ∧
  (∀ s : State, irq s.assertReset = false)

/-- 60_exceptions.md R223 and 70_reset_and_hazards.md R272: from any state, a run whose host accesses all lie in the window
reaches its end in as many steps as it has events, and one more for a command still pending. That the engine completes once no
event is left is the model's choice of a fair run (log 2). -/
def Obligations.EveryRunEnds : Prop :=
  ∀ s : State, (∀ e ∈ s.schedule, e.inWindow s.cfg = true) →
    ∃ t, Host.Core.run Sys2Proof.core (s.schedule.length + 1) s = .next t ∧ t.finished

/-! Invariants. -/

/-- Every step keeps the byte buffers inside CT and PT (10_state.md R36, R37) and in canonical form. The form, offsets rising and
no zero byte listed, is the model's own way to hold them (log 10). -/
def Obligations.StepKeepsMemoryInv : Prop :=
  ∀ s s' : State, s.memoryInv → step s = .next s' → s'.memoryInv

/-- 10_state.md R23 to R26, R45: every step keeps BUSY equal to "PENDING holds a command", with DONE and ERR 0 while busy. -/
def Obligations.StepKeepsHandshakeInv : Prop :=
  ∀ s s' : State, s.handshakeInv → step s = .next s' → s'.handshakeInv

/-- 10_state.md R39, R40, R44, 42_record_decoder.md R183: every step keeps the record outputs fitting together. -/
def Obligations.StepKeepsRecordInv : Prop :=
  ∀ s s' : State, s.recordInv → step s = .next s' → s'.recordInv

/-- 40_input_normalizer.md R124: every step keeps CT zero above the last digit pushed, so that a second digit's addition never
carries out of its nibble. -/
def Obligations.StepKeepsInputInv : Prop :=
  ∀ s s' : State, s.inputInv → step s = .next s' → s'.inputInv

/-- 00_scope.md R8, 10_state.md R33, R48: no step changes the launch's parameters, and the key table keeps KEY_SLOTS slots. -/
def Obligations.StepKeepsConfigInv : Prop :=
  ∀ s s' : State, s.configInv → step s = .next s' → s'.configInv ∧ s'.cfg = s.cfg

/-- 70_reset_and_hazards.md R260: the reset state of every launch meets every invariant. -/
def Obligations.ResetHasEveryInv : Prop := ∀ c : Config, c.wf = true → (State.resetOf c).Inv
end

