-- ==== Sys2Proof/Laws/Memory.lean ====
section
/-! SUPPORT. The laws of the byte buffers: what a read gives after a store, and that a store keeps the canonical form. -/

namespace Sys2Proof.Machine

theorem readCells_of_not_listed {cs : List Host.Cell} {a : Nat} (h : ∀ c ∈ cs, c.1 ≠ a) : readCells cs a = 0#8 := by
  induction cs with
  | nil => rfl
  | cons c cs ih =>
    have hc : c.1 ≠ a := h c (by simp)
    simp only [readCells, hc, if_false]
    exact ih fun d hd => h d (by simp [hd])

/-- A read skips cells that do not list its offset. -/
theorem readCells_append_right {xs : List Host.Cell} (ys : List Host.Cell) {a : Nat} (h : ∀ c ∈ xs, c.1 ≠ a) :
    readCells (xs ++ ys) a = readCells ys a := by
  induction xs with
  | nil => rfl
  | cons c cs ih =>
    have hc : c.1 ≠ a := h c (by simp)
    simp only [List.cons_append, readCells, hc, if_false]
    exact ih fun d hd => h d (by simp [hd])

/-- Cells that do not list an offset do not change what the cells before them give it. -/
theorem readCells_append_left (xs : List Host.Cell) {ys : List Host.Cell} {a : Nat} (h : ∀ c ∈ ys, c.1 ≠ a) :
    readCells (xs ++ ys) a = readCells xs a := by
  induction xs with
  | nil => simp [readCells, readCells_of_not_listed h]
  | cons c cs ih => simp [readCells, ih]

theorem readCells_filter (p : Nat → Bool) (cs : List Host.Cell) (a : Nat) :
    readCells (cs.filter fun c => p c.1) a = if p a then readCells cs a else 0#8 := by
  induction cs with
  | nil => simp [readCells]
  | cons c cs ih =>
    by_cases hc : c.1 = a
    · by_cases hp : p a
      · simp [readCells, hc, hp]
      · simp [hc, hp, ih]
    · by_cases hp : p c.1
      · simp [readCells, hc, hp, ih]
      · simp [readCells, hc, hp, ih]

/-- What the cells of a stored byte string are: offsets inside it, bytes that are not zero. -/
theorem mem_storedCells {bs : List Byte} {a : Nat} {c : Host.Cell} (h : c ∈ storedCells a bs) :
    a ≤ c.1 ∧ c.1 < a + bs.length ∧ c.2 ≠ 0#8 := by
  induction bs generalizing a with
  | nil => simp [storedCells] at h
  | cons b bs ih =>
    simp only [storedCells] at h
    split at h
    · obtain ⟨h1, h2, h3⟩ := ih h
      exact ⟨by omega, by simp only [List.length_cons]; omega, h3⟩
    · rcases List.mem_cons.1 h with rfl | h
      · exact ⟨Nat.le_refl _, by simp, by assumption⟩
      · obtain ⟨h1, h2, h3⟩ := ih h
        exact ⟨by omega, by simp only [List.length_cons]; omega, h3⟩

theorem readCells_storedCells (bs : List Byte) (a x : Nat) :
    readCells (storedCells a bs) x = if a ≤ x then (bs[x - a]?).getD 0#8 else 0#8 := by
  induction bs generalizing a with
  | nil => simp [storedCells, readCells]
  | cons b bs ih =>
    rcases Nat.lt_trichotomy x a with h | h | h
    · rw [readCells_of_not_listed, if_neg (by omega)]
      intro c hc
      have := mem_storedCells hc
      omega
    · subst h
      by_cases hb : b = 0#8
      · simp only [storedCells, hb, if_true, ih]
        simp
      · simp [storedCells, hb, readCells]
    · have hx : x - a = (x - (a + 1)) + 1 := by omega
      by_cases hb : b = 0#8
      · simp only [storedCells, hb, if_true, ih]
        rw [if_pos (by omega), if_pos (by omega), hx]
        simp
      · have hne : a ≠ x := by omega
        simp only [storedCells, hb, if_false, readCells, hne, ih]
        rw [if_pos (by omega), if_pos (by omega), hx]
        simp

/-- Everything a read gives after a store: the stored byte inside the stored range, the old byte outside it.
It holds of every memory, canonical or not. -/
theorem Memory.read_store (m : Memory) (a : Nat) (bs : List Byte) (x : Nat) :
    (m.store a bs).read x = if a ≤ x ∧ x < a + bs.length then (bs[x - a]?).getD 0#8 else m.read x := by
  have below : ∀ c ∈ m.cells.filter (fun c => decide (c.1 < a)), c.1 < a := by simp
  have above : ∀ c ∈ m.cells.filter (fun c => decide (a + bs.length ≤ c.1)), a + bs.length ≤ c.1 := by simp
  have inside : ∀ c ∈ storedCells a bs, a ≤ c.1 ∧ c.1 < a + bs.length := fun c hc =>
    ⟨(mem_storedCells hc).1, (mem_storedCells hc).2.1⟩
  simp only [Memory.read, Memory.store]
  by_cases h1 : x < a
  · rw [if_neg (by omega), readCells_append_left _ fun c hc => by have := above c hc; omega,
      readCells_append_left _ fun c hc => by have := inside c hc; omega,
      readCells_filter (fun y => decide (y < a)), if_pos (by simpa using h1)]
  · by_cases h2 : x < a + bs.length
    · rw [if_pos (by omega), readCells_append_left _ fun c hc => by have := above c hc; omega,
        readCells_append_right _ fun c hc => by have := below c hc; omega,
        readCells_storedCells, if_pos (by omega)]
    · rw [if_neg (by omega), List.append_assoc,
        readCells_append_right _ fun c hc => by have := below c hc; omega,
        readCells_append_right _ fun c hc => by have := inside c hc; omega,
        readCells_filter (fun y => decide (a + bs.length ≤ y)), if_pos (by simp; omega)]

/-- The offsets a store lists: old ones outside the stored range, or offsets inside it. -/
theorem Memory.mem_store {m : Memory} {a : Nat} {bs : List Byte} {c : Host.Cell} (h : c ∈ (m.store a bs).cells) :
    (c ∈ m.cells ∧ (c.1 < a ∨ a + bs.length ≤ c.1)) ∨ (a ≤ c.1 ∧ c.1 < a + bs.length ∧ c.2 ≠ 0#8) := by
  simp only [Memory.store, List.mem_append, List.mem_filter, decide_eq_true_eq] at h
  rcases h with (⟨h, hlt⟩ | h) | ⟨h, hle⟩
  · exact .inl ⟨h, .inl hlt⟩
  · exact .inr (mem_storedCells h)
  · exact .inl ⟨h, .inr hle⟩

theorem storedCells_sorted (bs : List Byte) (a : Nat) :
    (storedCells a bs).Pairwise fun c d => c.1 < d.1 := by
  induction bs generalizing a with
  | nil => simp [storedCells]
  | cons b bs ih =>
    simp only [storedCells]
    split
    · exact ih _
    · refine List.pairwise_cons.2 ⟨fun d hd => ?_, ih _⟩
      have := mem_storedCells hd
      simp only
      omega

/-- A store keeps the canonical form. -/
theorem Memory.wf_store {m : Memory} (h : m.wf) (a : Nat) (bs : List Byte) : (m.store a bs).wf := by
  refine ⟨?_, fun c hc => ?_⟩
  · simp only [Memory.store, List.pairwise_append, List.mem_append, List.mem_filter, decide_eq_true_eq]
    refine ⟨⟨h.1.filter _, storedCells_sorted bs a, ?_⟩, h.1.filter _, ?_⟩
    · rintro c ⟨_, hc⟩ d hd
      have := mem_storedCells hd
      omega
    · rintro c (⟨_, hc⟩ | hc) d ⟨_, hd⟩
      · omega
      · have := mem_storedCells hc
        omega
  · rcases Memory.mem_store hc with ⟨hm, _⟩ | ⟨_, _, hz⟩
    · exact h.2 c hm
    · exact hz

/-- The memory at reset is in canonical form. -/
theorem Memory.wf_reset (c : Config) : (State.resetOf c).mem.wf := by simp [State.resetOf, Memory.wf]

/-- Storing the same bytes twice is storing them once. -/
theorem Memory.store_store (m : Memory) (a : Nat) (bs cs : List Byte) (h : bs.length = cs.length) :
    (m.store a bs).store a cs = m.store a cs := by
  have h1 : (storedCells a bs).filter (fun c => decide (c.1 < a)) = [] := by
    refine List.filter_eq_nil_iff.2 fun c hc => ?_
    have := mem_storedCells hc
    simp only [decide_eq_true_eq]
    omega
  have h2 : (storedCells a bs).filter (fun c => decide (a + cs.length ≤ c.1)) = [] := by
    refine List.filter_eq_nil_iff.2 fun c hc => ?_
    have := mem_storedCells hc
    simp only [decide_eq_true_eq]
    omega
  have h3 : (m.cells.filter (fun c => decide (a + bs.length ≤ c.1))).filter (fun c => decide (c.1 < a)) = [] := by
    refine List.filter_eq_nil_iff.2 fun c hc => ?_
    simp only [List.mem_filter, decide_eq_true_eq] at hc ⊢
    omega
  have h4 : (m.cells.filter (fun c => decide (c.1 < a))).filter (fun c => decide (a + cs.length ≤ c.1)) = [] := by
    refine List.filter_eq_nil_iff.2 fun c hc => ?_
    simp only [List.mem_filter, decide_eq_true_eq] at hc ⊢
    omega
  have h5 : (m.cells.filter (fun c => decide (c.1 < a))).filter (fun c => decide (c.1 < a))
      = m.cells.filter (fun c => decide (c.1 < a)) := by simp [List.filter_filter]
  have h6 : (m.cells.filter (fun c => decide (a + bs.length ≤ c.1))).filter (fun c => decide (a + cs.length ≤ c.1))
      = m.cells.filter (fun c => decide (a + cs.length ≤ c.1)) := by simp [List.filter_filter, h]
  simp only [Memory.store, List.filter_append, h1, h2, h3, h4, h5, h6, List.append_nil, List.nil_append]

@[simp] theorem Memory.length_load (m : Memory) (a n : Nat) : (m.load a n).length = n := by simp [Memory.load]

/-- Byte i of a load. -/
theorem Memory.getElem_load (m : Memory) (a n i : Nat) (h : i < (m.load a n).length) :
    (m.load a n)[i] = m.read (a + i) := by simp [Memory.load]

/-- A load of a range a store covers exactly gives the stored bytes. -/
theorem Memory.load_store_same (m : Memory) (a : Nat) (bs : List Byte) :
    (m.store a bs).load a bs.length = bs := by
  refine List.ext_getElem (by simp) fun i h1 h2 => ?_
  simp only [Memory.length_load] at h1
  rw [Memory.getElem_load, Memory.read_store, if_pos (by omega)]
  simp [h1]

/-- A load of a range a store does not touch is unchanged. -/
theorem Memory.load_store_disjoint (m : Memory) (a b n : Nat) (bs : List Byte)
    (h : b + n ≤ a ∨ a + bs.length ≤ b) : (m.store a bs).load b n = m.load b n := by
  refine List.ext_getElem (by simp) fun i h1 h2 => ?_
  simp only [Memory.length_load] at h1
  rw [Memory.getElem_load, Memory.getElem_load, Memory.read_store, if_neg (by omega)]

@[simp] theorem length_zeroBytes (n : Nat) : (zeroBytes n).length = n := by simp [zeroBytes]

@[simp] theorem getElem?_zeroBytes (n i : Nat) : ((zeroBytes n)[i]?).getD 0#8 = 0#8 := by
  simp only [zeroBytes, List.getElem?_replicate]
  split <;> rfl

/-- A store of zero bytes clears its range and leaves the rest. -/
theorem Memory.read_store_zeroBytes (m : Memory) (a n x : Nat) :
    (m.store a (zeroBytes n)).read x = if a ≤ x ∧ x < a + n then 0#8 else m.read x := by
  rw [Memory.read_store]
  simp

end Sys2Proof.Machine
end

