-- ==== Sys2Proof/Laws/State.lean ====
section
/-! SUPPORT. One lemma per field per update of State, true by rfl: no proof needs to unfold a record update. -/

namespace Sys2Proof.Machine

/-- Raising an error is completing with its code. -/
@[simp] theorem State.raise_eq (s : State) (code : ErrCode) : s.raise code = s.complete code := rfl

/-- A failed decryption is a cleared record and a zero plaintext of length 0. -/
theorem State.failDecrypt_eq (s : State) :
    s.failDecrypt = s.clearRecord.setPlaintext (zeroBytes 640) 0#16 := rfl

/-- A successful decryption is a cleared record and the plaintext at length 640. -/
theorem State.commitPlaintext_eq (s : State) (p : List Byte) :
    s.commitPlaintext p = s.clearRecord.setPlaintext p 640#16 := rfl

/-- An asserted reset is the reset state of the same launch with the same events to come. -/
theorem State.assertReset_eq (s : State) :
    s.assertReset = { State.resetOf s.cfg with schedule := s.schedule } := rfl

/-- While busy a read of CTRL returns what it held at acceptance (20_memory.md R68). -/
theorem State.ctrlSeen_busy {s : State} (h : s.status.busy = true) : s.ctrlSeen = s.ctrlAtAcceptance := by
  simp [State.ctrlSeen, h]

/-- While idle a read of CTRL returns what it holds. -/
theorem State.ctrlSeen_idle {s : State} (h : s.status.busy = false) : s.ctrlSeen = s.ctrl := by
  simp [State.ctrlSeen, h]

/-! Fields after `complete`. -/

@[simp] theorem State.complete_cfg (s : State) (code : ErrCode) : (s.complete code).cfg = s.cfg := rfl
@[simp] theorem State.complete_pending (s : State) (code : ErrCode) : (s.complete code).pending = none := rfl
@[simp] theorem State.complete_status (s : State) (code : ErrCode) :
    (s.complete code).status = { s.status with err := code, busy := false, done := true } := rfl
@[simp] theorem State.complete_ctrl (s : State) (code : ErrCode) : (s.complete code).ctrl = s.ctrl := rfl
@[simp] theorem State.complete_ctrlAtAcceptance (s : State) (code : ErrCode) :
    (s.complete code).ctrlAtAcceptance = s.ctrlAtAcceptance := rfl
@[simp] theorem State.complete_hexcnt (s : State) (code : ErrCode) : (s.complete code).hexcnt = s.hexcnt := rfl
@[simp] theorem State.complete_keys (s : State) (code : ErrCode) : (s.complete code).keys = s.keys := rfl
@[simp] theorem State.complete_opBase (s : State) (code : ErrCode) : (s.complete code).opBase = s.opBase := rfl
@[simp] theorem State.complete_opExp (s : State) (code : ErrCode) : (s.complete code).opExp = s.opExp := rfl
@[simp] theorem State.complete_opMod (s : State) (code : ErrCode) : (s.complete code).opMod = s.opMod := rfl
@[simp] theorem State.complete_opRes (s : State) (code : ErrCode) : (s.complete code).opRes = s.opRes := rfl
@[simp] theorem State.complete_mem (s : State) (code : ErrCode) : (s.complete code).mem = s.mem := rfl
@[simp] theorem State.complete_ptLen (s : State) (code : ErrCode) : (s.complete code).ptLen = s.ptLen := rfl
@[simp] theorem State.complete_recValid (s : State) (code : ErrCode) : (s.complete code).recValid = s.recValid := rfl
@[simp] theorem State.complete_recComplete (s : State) (code : ErrCode) :
    (s.complete code).recComplete = s.recComplete := rfl
@[simp] theorem State.complete_fieldValid (s : State) (code : ErrCode) :
    (s.complete code).fieldValid = s.fieldValid := rfl
@[simp] theorem State.complete_ft (s : State) (code : ErrCode) : (s.complete code).ft = s.ft := rfl
@[simp] theorem State.complete_fv (s : State) (code : ErrCode) : (s.complete code).fv = s.fv := rfl
@[simp] theorem State.complete_schedule (s : State) (code : ErrCode) : (s.complete code).schedule = s.schedule := rfl
@[simp] theorem State.complete_response (s : State) (code : ErrCode) : (s.complete code).response = s.response := rfl

/-! Fields after `accept`. -/

@[simp] theorem State.accept_cfg (s : State) (w : Word) : (s.accept w).cfg = s.cfg := rfl
@[simp] theorem State.accept_pending (s : State) (w : Word) : (s.accept w).pending = some w := rfl
@[simp] theorem State.accept_status (s : State) (w : Word) :
    (s.accept w).status = { s.status with busy := true, done := false, err := .none } := rfl
@[simp] theorem State.accept_ctrl (s : State) (w : Word) : (s.accept w).ctrl = s.ctrl := rfl
@[simp] theorem State.accept_ctrlAtAcceptance (s : State) (w : Word) : (s.accept w).ctrlAtAcceptance = s.ctrl := rfl
@[simp] theorem State.accept_hexcnt (s : State) (w : Word) : (s.accept w).hexcnt = s.hexcnt := rfl
@[simp] theorem State.accept_keys (s : State) (w : Word) : (s.accept w).keys = s.keys := rfl
@[simp] theorem State.accept_opBase (s : State) (w : Word) : (s.accept w).opBase = s.opBase := rfl
@[simp] theorem State.accept_opExp (s : State) (w : Word) : (s.accept w).opExp = s.opExp := rfl
@[simp] theorem State.accept_opMod (s : State) (w : Word) : (s.accept w).opMod = s.opMod := rfl
@[simp] theorem State.accept_opRes (s : State) (w : Word) : (s.accept w).opRes = s.opRes := rfl
@[simp] theorem State.accept_mem (s : State) (w : Word) : (s.accept w).mem = s.mem := rfl
@[simp] theorem State.accept_ptLen (s : State) (w : Word) : (s.accept w).ptLen = s.ptLen := rfl
@[simp] theorem State.accept_recValid (s : State) (w : Word) : (s.accept w).recValid = s.recValid := rfl
@[simp] theorem State.accept_recComplete (s : State) (w : Word) : (s.accept w).recComplete = s.recComplete := rfl
@[simp] theorem State.accept_fieldValid (s : State) (w : Word) : (s.accept w).fieldValid = s.fieldValid := rfl
@[simp] theorem State.accept_ft (s : State) (w : Word) : (s.accept w).ft = s.ft := rfl
@[simp] theorem State.accept_fv (s : State) (w : Word) : (s.accept w).fv = s.fv := rfl
@[simp] theorem State.accept_schedule (s : State) (w : Word) : (s.accept w).schedule = s.schedule := rfl
@[simp] theorem State.accept_response (s : State) (w : Word) : (s.accept w).response = s.response := rfl

/-! Fields after `markOverrun`. -/

@[simp] theorem State.markOverrun_cfg (s : State) : (s.markOverrun).cfg = s.cfg := rfl
@[simp] theorem State.markOverrun_pending (s : State) : (s.markOverrun).pending = s.pending := rfl
@[simp] theorem State.markOverrun_status (s : State) : (s.markOverrun).status = { s.status with overrun := true } := rfl
@[simp] theorem State.markOverrun_ctrl (s : State) : (s.markOverrun).ctrl = s.ctrl := rfl
@[simp] theorem State.markOverrun_ctrlAtAcceptance (s : State) :
    (s.markOverrun).ctrlAtAcceptance = s.ctrlAtAcceptance := rfl
@[simp] theorem State.markOverrun_hexcnt (s : State) : (s.markOverrun).hexcnt = s.hexcnt := rfl
@[simp] theorem State.markOverrun_keys (s : State) : (s.markOverrun).keys = s.keys := rfl
@[simp] theorem State.markOverrun_opBase (s : State) : (s.markOverrun).opBase = s.opBase := rfl
@[simp] theorem State.markOverrun_opExp (s : State) : (s.markOverrun).opExp = s.opExp := rfl
@[simp] theorem State.markOverrun_opMod (s : State) : (s.markOverrun).opMod = s.opMod := rfl
@[simp] theorem State.markOverrun_opRes (s : State) : (s.markOverrun).opRes = s.opRes := rfl
@[simp] theorem State.markOverrun_mem (s : State) : (s.markOverrun).mem = s.mem := rfl
@[simp] theorem State.markOverrun_ptLen (s : State) : (s.markOverrun).ptLen = s.ptLen := rfl
@[simp] theorem State.markOverrun_recValid (s : State) : (s.markOverrun).recValid = s.recValid := rfl
@[simp] theorem State.markOverrun_recComplete (s : State) : (s.markOverrun).recComplete = s.recComplete := rfl
@[simp] theorem State.markOverrun_fieldValid (s : State) : (s.markOverrun).fieldValid = s.fieldValid := rfl
@[simp] theorem State.markOverrun_ft (s : State) : (s.markOverrun).ft = s.ft := rfl
@[simp] theorem State.markOverrun_fv (s : State) : (s.markOverrun).fv = s.fv := rfl
@[simp] theorem State.markOverrun_schedule (s : State) : (s.markOverrun).schedule = s.schedule := rfl
@[simp] theorem State.markOverrun_response (s : State) : (s.markOverrun).response = s.response := rfl

/-! Fields after `markLockViolation`. -/

@[simp] theorem State.markLockViolation_cfg (s : State) : (s.markLockViolation).cfg = s.cfg := rfl
@[simp] theorem State.markLockViolation_pending (s : State) : (s.markLockViolation).pending = s.pending := rfl
@[simp] theorem State.markLockViolation_status (s : State) :
    (s.markLockViolation).status = { s.status with lockViolation := true } := rfl
@[simp] theorem State.markLockViolation_ctrl (s : State) : (s.markLockViolation).ctrl = s.ctrl := rfl
@[simp] theorem State.markLockViolation_ctrlAtAcceptance (s : State) :
    (s.markLockViolation).ctrlAtAcceptance = s.ctrlAtAcceptance := rfl
@[simp] theorem State.markLockViolation_hexcnt (s : State) : (s.markLockViolation).hexcnt = s.hexcnt := rfl
@[simp] theorem State.markLockViolation_keys (s : State) : (s.markLockViolation).keys = s.keys := rfl
@[simp] theorem State.markLockViolation_opBase (s : State) : (s.markLockViolation).opBase = s.opBase := rfl
@[simp] theorem State.markLockViolation_opExp (s : State) : (s.markLockViolation).opExp = s.opExp := rfl
@[simp] theorem State.markLockViolation_opMod (s : State) : (s.markLockViolation).opMod = s.opMod := rfl
@[simp] theorem State.markLockViolation_opRes (s : State) : (s.markLockViolation).opRes = s.opRes := rfl
@[simp] theorem State.markLockViolation_mem (s : State) : (s.markLockViolation).mem = s.mem := rfl
@[simp] theorem State.markLockViolation_ptLen (s : State) : (s.markLockViolation).ptLen = s.ptLen := rfl
@[simp] theorem State.markLockViolation_recValid (s : State) : (s.markLockViolation).recValid = s.recValid := rfl
@[simp] theorem State.markLockViolation_recComplete (s : State) :
    (s.markLockViolation).recComplete = s.recComplete := rfl
@[simp] theorem State.markLockViolation_fieldValid (s : State) : (s.markLockViolation).fieldValid = s.fieldValid := rfl
@[simp] theorem State.markLockViolation_ft (s : State) : (s.markLockViolation).ft = s.ft := rfl
@[simp] theorem State.markLockViolation_fv (s : State) : (s.markLockViolation).fv = s.fv := rfl
@[simp] theorem State.markLockViolation_schedule (s : State) : (s.markLockViolation).schedule = s.schedule := rfl
@[simp] theorem State.markLockViolation_response (s : State) : (s.markLockViolation).response = s.response := rfl

/-! Fields after `clearRecord`. -/

@[simp] theorem State.clearRecord_cfg (s : State) : (s.clearRecord).cfg = s.cfg := rfl
@[simp] theorem State.clearRecord_pending (s : State) : (s.clearRecord).pending = s.pending := rfl
@[simp] theorem State.clearRecord_status (s : State) : (s.clearRecord).status = s.status := rfl
@[simp] theorem State.clearRecord_ctrl (s : State) : (s.clearRecord).ctrl = s.ctrl := rfl
@[simp] theorem State.clearRecord_ctrlAtAcceptance (s : State) :
    (s.clearRecord).ctrlAtAcceptance = s.ctrlAtAcceptance := rfl
@[simp] theorem State.clearRecord_hexcnt (s : State) : (s.clearRecord).hexcnt = s.hexcnt := rfl
@[simp] theorem State.clearRecord_keys (s : State) : (s.clearRecord).keys = s.keys := rfl
@[simp] theorem State.clearRecord_opBase (s : State) : (s.clearRecord).opBase = s.opBase := rfl
@[simp] theorem State.clearRecord_opExp (s : State) : (s.clearRecord).opExp = s.opExp := rfl
@[simp] theorem State.clearRecord_opMod (s : State) : (s.clearRecord).opMod = s.opMod := rfl
@[simp] theorem State.clearRecord_opRes (s : State) : (s.clearRecord).opRes = s.opRes := rfl
@[simp] theorem State.clearRecord_mem (s : State) : (s.clearRecord).mem = s.mem := rfl
@[simp] theorem State.clearRecord_ptLen (s : State) : (s.clearRecord).ptLen = s.ptLen := rfl
@[simp] theorem State.clearRecord_recValid (s : State) : (s.clearRecord).recValid = false := rfl
@[simp] theorem State.clearRecord_recComplete (s : State) : (s.clearRecord).recComplete = false := rfl
@[simp] theorem State.clearRecord_fieldValid (s : State) : (s.clearRecord).fieldValid = Vector.replicate 32 false := rfl
@[simp] theorem State.clearRecord_ft (s : State) : (s.clearRecord).ft = s.ft := rfl
@[simp] theorem State.clearRecord_fv (s : State) : (s.clearRecord).fv = Vector.replicate 32 FieldValue.sentinel := rfl
@[simp] theorem State.clearRecord_schedule (s : State) : (s.clearRecord).schedule = s.schedule := rfl
@[simp] theorem State.clearRecord_response (s : State) : (s.clearRecord).response = s.response := rfl

/-! Fields after `setPlaintext`. -/

@[simp] theorem State.setPlaintext_cfg (s : State) (bs : List Byte) (n : BitVec 16) :
    (s.setPlaintext bs n).cfg = s.cfg := rfl
@[simp] theorem State.setPlaintext_pending (s : State) (bs : List Byte) (n : BitVec 16) :
    (s.setPlaintext bs n).pending = s.pending := rfl
@[simp] theorem State.setPlaintext_status (s : State) (bs : List Byte) (n : BitVec 16) :
    (s.setPlaintext bs n).status = s.status := rfl
@[simp] theorem State.setPlaintext_ctrl (s : State) (bs : List Byte) (n : BitVec 16) :
    (s.setPlaintext bs n).ctrl = s.ctrl := rfl
@[simp] theorem State.setPlaintext_ctrlAtAcceptance (s : State) (bs : List Byte) (n : BitVec 16) :
    (s.setPlaintext bs n).ctrlAtAcceptance = s.ctrlAtAcceptance := rfl
@[simp] theorem State.setPlaintext_hexcnt (s : State) (bs : List Byte) (n : BitVec 16) :
    (s.setPlaintext bs n).hexcnt = s.hexcnt := rfl
@[simp] theorem State.setPlaintext_keys (s : State) (bs : List Byte) (n : BitVec 16) :
    (s.setPlaintext bs n).keys = s.keys := rfl
@[simp] theorem State.setPlaintext_opBase (s : State) (bs : List Byte) (n : BitVec 16) :
    (s.setPlaintext bs n).opBase = s.opBase := rfl
@[simp] theorem State.setPlaintext_opExp (s : State) (bs : List Byte) (n : BitVec 16) :
    (s.setPlaintext bs n).opExp = s.opExp := rfl
@[simp] theorem State.setPlaintext_opMod (s : State) (bs : List Byte) (n : BitVec 16) :
    (s.setPlaintext bs n).opMod = s.opMod := rfl
@[simp] theorem State.setPlaintext_opRes (s : State) (bs : List Byte) (n : BitVec 16) :
    (s.setPlaintext bs n).opRes = s.opRes := rfl
@[simp] theorem State.setPlaintext_mem (s : State) (bs : List Byte) (n : BitVec 16) :
    (s.setPlaintext bs n).mem = s.mem.store ptBase bs := rfl
@[simp] theorem State.setPlaintext_ptLen (s : State) (bs : List Byte) (n : BitVec 16) :
    (s.setPlaintext bs n).ptLen = n := rfl
@[simp] theorem State.setPlaintext_recValid (s : State) (bs : List Byte) (n : BitVec 16) :
    (s.setPlaintext bs n).recValid = s.recValid := rfl
@[simp] theorem State.setPlaintext_recComplete (s : State) (bs : List Byte) (n : BitVec 16) :
    (s.setPlaintext bs n).recComplete = s.recComplete := rfl
@[simp] theorem State.setPlaintext_fieldValid (s : State) (bs : List Byte) (n : BitVec 16) :
    (s.setPlaintext bs n).fieldValid = s.fieldValid := rfl
@[simp] theorem State.setPlaintext_ft (s : State) (bs : List Byte) (n : BitVec 16) :
    (s.setPlaintext bs n).ft = s.ft := rfl
@[simp] theorem State.setPlaintext_fv (s : State) (bs : List Byte) (n : BitVec 16) :
    (s.setPlaintext bs n).fv = s.fv := rfl
@[simp] theorem State.setPlaintext_schedule (s : State) (bs : List Byte) (n : BitVec 16) :
    (s.setPlaintext bs n).schedule = s.schedule := rfl
@[simp] theorem State.setPlaintext_response (s : State) (bs : List Byte) (n : BitVec 16) :
    (s.setPlaintext bs n).response = s.response := rfl

/-! Fields after `setResult`. -/

@[simp] theorem State.setResult_cfg (s : State) (r : Big) : (s.setResult r).cfg = s.cfg := rfl
@[simp] theorem State.setResult_pending (s : State) (r : Big) : (s.setResult r).pending = s.pending := rfl
@[simp] theorem State.setResult_status (s : State) (r : Big) : (s.setResult r).status = s.status := rfl
@[simp] theorem State.setResult_ctrl (s : State) (r : Big) : (s.setResult r).ctrl = s.ctrl := rfl
@[simp] theorem State.setResult_ctrlAtAcceptance (s : State) (r : Big) :
    (s.setResult r).ctrlAtAcceptance = s.ctrlAtAcceptance := rfl
@[simp] theorem State.setResult_hexcnt (s : State) (r : Big) : (s.setResult r).hexcnt = s.hexcnt := rfl
@[simp] theorem State.setResult_keys (s : State) (r : Big) : (s.setResult r).keys = s.keys := rfl
@[simp] theorem State.setResult_opBase (s : State) (r : Big) : (s.setResult r).opBase = s.opBase := rfl
@[simp] theorem State.setResult_opExp (s : State) (r : Big) : (s.setResult r).opExp = s.opExp := rfl
@[simp] theorem State.setResult_opMod (s : State) (r : Big) : (s.setResult r).opMod = s.opMod := rfl
@[simp] theorem State.setResult_opRes (s : State) (r : Big) : (s.setResult r).opRes = r := rfl
@[simp] theorem State.setResult_mem (s : State) (r : Big) : (s.setResult r).mem = s.mem := rfl
@[simp] theorem State.setResult_ptLen (s : State) (r : Big) : (s.setResult r).ptLen = s.ptLen := rfl
@[simp] theorem State.setResult_recValid (s : State) (r : Big) : (s.setResult r).recValid = s.recValid := rfl
@[simp] theorem State.setResult_recComplete (s : State) (r : Big) : (s.setResult r).recComplete = s.recComplete := rfl
@[simp] theorem State.setResult_fieldValid (s : State) (r : Big) : (s.setResult r).fieldValid = s.fieldValid := rfl
@[simp] theorem State.setResult_ft (s : State) (r : Big) : (s.setResult r).ft = s.ft := rfl
@[simp] theorem State.setResult_fv (s : State) (r : Big) : (s.setResult r).fv = s.fv := rfl
@[simp] theorem State.setResult_schedule (s : State) (r : Big) : (s.setResult r).schedule = s.schedule := rfl
@[simp] theorem State.setResult_response (s : State) (r : Big) : (s.setResult r).response = s.response := rfl

/-! Fields after `setInput`. -/

@[simp] theorem State.setInput_cfg (s : State) (n : BitVec 16) (m : Memory) : (s.setInput n m).cfg = s.cfg := rfl
@[simp] theorem State.setInput_pending (s : State) (n : BitVec 16) (m : Memory) :
    (s.setInput n m).pending = s.pending := rfl
@[simp] theorem State.setInput_status (s : State) (n : BitVec 16) (m : Memory) :
    (s.setInput n m).status = s.status := rfl
@[simp] theorem State.setInput_ctrl (s : State) (n : BitVec 16) (m : Memory) : (s.setInput n m).ctrl = s.ctrl := rfl
@[simp] theorem State.setInput_ctrlAtAcceptance (s : State) (n : BitVec 16) (m : Memory) :
    (s.setInput n m).ctrlAtAcceptance = s.ctrlAtAcceptance := rfl
@[simp] theorem State.setInput_hexcnt (s : State) (n : BitVec 16) (m : Memory) : (s.setInput n m).hexcnt = n := rfl
@[simp] theorem State.setInput_keys (s : State) (n : BitVec 16) (m : Memory) : (s.setInput n m).keys = s.keys := rfl
@[simp] theorem State.setInput_opBase (s : State) (n : BitVec 16) (m : Memory) :
    (s.setInput n m).opBase = s.opBase := rfl
@[simp] theorem State.setInput_opExp (s : State) (n : BitVec 16) (m : Memory) : (s.setInput n m).opExp = s.opExp := rfl
@[simp] theorem State.setInput_opMod (s : State) (n : BitVec 16) (m : Memory) : (s.setInput n m).opMod = s.opMod := rfl
@[simp] theorem State.setInput_opRes (s : State) (n : BitVec 16) (m : Memory) : (s.setInput n m).opRes = s.opRes := rfl
@[simp] theorem State.setInput_mem (s : State) (n : BitVec 16) (m : Memory) : (s.setInput n m).mem = m := rfl
@[simp] theorem State.setInput_ptLen (s : State) (n : BitVec 16) (m : Memory) : (s.setInput n m).ptLen = s.ptLen := rfl
@[simp] theorem State.setInput_recValid (s : State) (n : BitVec 16) (m : Memory) :
    (s.setInput n m).recValid = s.recValid := rfl
@[simp] theorem State.setInput_recComplete (s : State) (n : BitVec 16) (m : Memory) :
    (s.setInput n m).recComplete = s.recComplete := rfl
@[simp] theorem State.setInput_fieldValid (s : State) (n : BitVec 16) (m : Memory) :
    (s.setInput n m).fieldValid = s.fieldValid := rfl
@[simp] theorem State.setInput_ft (s : State) (n : BitVec 16) (m : Memory) : (s.setInput n m).ft = s.ft := rfl
@[simp] theorem State.setInput_fv (s : State) (n : BitVec 16) (m : Memory) : (s.setInput n m).fv = s.fv := rfl
@[simp] theorem State.setInput_schedule (s : State) (n : BitVec 16) (m : Memory) :
    (s.setInput n m).schedule = s.schedule := rfl
@[simp] theorem State.setInput_response (s : State) (n : BitVec 16) (m : Memory) :
    (s.setInput n m).response = s.response := rfl

/-! Fields after `setRecord`. -/

@[simp] theorem State.setRecord_cfg (s : State) (v : Vector Bool 32) (x : Vector FieldValue 32) (b : Bool) :
    (s.setRecord v x b).cfg = s.cfg := rfl
@[simp] theorem State.setRecord_pending (s : State) (v : Vector Bool 32) (x : Vector FieldValue 32) (b : Bool) :
    (s.setRecord v x b).pending = s.pending := rfl
@[simp] theorem State.setRecord_status (s : State) (v : Vector Bool 32) (x : Vector FieldValue 32) (b : Bool) :
    (s.setRecord v x b).status = s.status := rfl
@[simp] theorem State.setRecord_ctrl (s : State) (v : Vector Bool 32) (x : Vector FieldValue 32) (b : Bool) :
    (s.setRecord v x b).ctrl = s.ctrl := rfl
@[simp] theorem State.setRecord_ctrlAtAcceptance (s : State) (v : Vector Bool 32) (x : Vector FieldValue 32) (b : Bool) :
    (s.setRecord v x b).ctrlAtAcceptance = s.ctrlAtAcceptance := rfl
@[simp] theorem State.setRecord_hexcnt (s : State) (v : Vector Bool 32) (x : Vector FieldValue 32) (b : Bool) :
    (s.setRecord v x b).hexcnt = s.hexcnt := rfl
@[simp] theorem State.setRecord_keys (s : State) (v : Vector Bool 32) (x : Vector FieldValue 32) (b : Bool) :
    (s.setRecord v x b).keys = s.keys := rfl
@[simp] theorem State.setRecord_opBase (s : State) (v : Vector Bool 32) (x : Vector FieldValue 32) (b : Bool) :
    (s.setRecord v x b).opBase = s.opBase := rfl
@[simp] theorem State.setRecord_opExp (s : State) (v : Vector Bool 32) (x : Vector FieldValue 32) (b : Bool) :
    (s.setRecord v x b).opExp = s.opExp := rfl
@[simp] theorem State.setRecord_opMod (s : State) (v : Vector Bool 32) (x : Vector FieldValue 32) (b : Bool) :
    (s.setRecord v x b).opMod = s.opMod := rfl
@[simp] theorem State.setRecord_opRes (s : State) (v : Vector Bool 32) (x : Vector FieldValue 32) (b : Bool) :
    (s.setRecord v x b).opRes = s.opRes := rfl
@[simp] theorem State.setRecord_mem (s : State) (v : Vector Bool 32) (x : Vector FieldValue 32) (b : Bool) :
    (s.setRecord v x b).mem = s.mem := rfl
@[simp] theorem State.setRecord_ptLen (s : State) (v : Vector Bool 32) (x : Vector FieldValue 32) (b : Bool) :
    (s.setRecord v x b).ptLen = s.ptLen := rfl
@[simp] theorem State.setRecord_recValid (s : State) (v : Vector Bool 32) (x : Vector FieldValue 32) (b : Bool) :
    (s.setRecord v x b).recValid = true := rfl
@[simp] theorem State.setRecord_recComplete (s : State) (v : Vector Bool 32) (x : Vector FieldValue 32) (b : Bool) :
    (s.setRecord v x b).recComplete = b := rfl
@[simp] theorem State.setRecord_fieldValid (s : State) (v : Vector Bool 32) (x : Vector FieldValue 32) (b : Bool) :
    (s.setRecord v x b).fieldValid = v := rfl
@[simp] theorem State.setRecord_ft (s : State) (v : Vector Bool 32) (x : Vector FieldValue 32) (b : Bool) :
    (s.setRecord v x b).ft = s.ft := rfl
@[simp] theorem State.setRecord_fv (s : State) (v : Vector Bool 32) (x : Vector FieldValue 32) (b : Bool) :
    (s.setRecord v x b).fv = x := rfl
@[simp] theorem State.setRecord_schedule (s : State) (v : Vector Bool 32) (x : Vector FieldValue 32) (b : Bool) :
    (s.setRecord v x b).schedule = s.schedule := rfl
@[simp] theorem State.setRecord_response (s : State) (v : Vector Bool 32) (x : Vector FieldValue 32) (b : Bool) :
    (s.setRecord v x b).response = s.response := rfl

/-! Fields after `commitRecord`. -/

@[simp] theorem State.commitRecord_cfg (s : State) (r : Fin 32 → SlotResult) : (s.commitRecord r).cfg = s.cfg := rfl
@[simp] theorem State.commitRecord_pending (s : State) (r : Fin 32 → SlotResult) :
    (s.commitRecord r).pending = s.pending := rfl
@[simp] theorem State.commitRecord_status (s : State) (r : Fin 32 → SlotResult) :
    (s.commitRecord r).status = s.status := rfl
@[simp] theorem State.commitRecord_ctrl (s : State) (r : Fin 32 → SlotResult) : (s.commitRecord r).ctrl = s.ctrl := rfl
@[simp] theorem State.commitRecord_ctrlAtAcceptance (s : State) (r : Fin 32 → SlotResult) :
    (s.commitRecord r).ctrlAtAcceptance = s.ctrlAtAcceptance := rfl
@[simp] theorem State.commitRecord_hexcnt (s : State) (r : Fin 32 → SlotResult) :
    (s.commitRecord r).hexcnt = s.hexcnt := rfl
@[simp] theorem State.commitRecord_keys (s : State) (r : Fin 32 → SlotResult) : (s.commitRecord r).keys = s.keys := rfl
@[simp] theorem State.commitRecord_opBase (s : State) (r : Fin 32 → SlotResult) :
    (s.commitRecord r).opBase = s.opBase := rfl
@[simp] theorem State.commitRecord_opExp (s : State) (r : Fin 32 → SlotResult) :
    (s.commitRecord r).opExp = s.opExp := rfl
@[simp] theorem State.commitRecord_opMod (s : State) (r : Fin 32 → SlotResult) :
    (s.commitRecord r).opMod = s.opMod := rfl
@[simp] theorem State.commitRecord_opRes (s : State) (r : Fin 32 → SlotResult) :
    (s.commitRecord r).opRes = s.opRes := rfl
@[simp] theorem State.commitRecord_mem (s : State) (r : Fin 32 → SlotResult) : (s.commitRecord r).mem = s.mem := rfl
@[simp] theorem State.commitRecord_ptLen (s : State) (r : Fin 32 → SlotResult) :
    (s.commitRecord r).ptLen = s.ptLen := rfl
@[simp] theorem State.commitRecord_recValid (s : State) (r : Fin 32 → SlotResult) :
    (s.commitRecord r).recValid = true := rfl
@[simp] theorem State.commitRecord_recComplete (s : State) (r : Fin 32 → SlotResult) :
    (s.commitRecord r).recComplete = completeFn s.ft r := rfl
@[simp] theorem State.commitRecord_fieldValid (s : State) (r : Fin 32 → SlotResult) :
    (s.commitRecord r).fieldValid = Vector.ofFn fun i => (r i).isValue := rfl
@[simp] theorem State.commitRecord_ft (s : State) (r : Fin 32 → SlotResult) : (s.commitRecord r).ft = s.ft := rfl
@[simp] theorem State.commitRecord_fv (s : State) (r : Fin 32 → SlotResult) :
    (s.commitRecord r).fv = Vector.ofFn fun i => (r i).fieldValue := rfl
@[simp] theorem State.commitRecord_schedule (s : State) (r : Fin 32 → SlotResult) :
    (s.commitRecord r).schedule = s.schedule := rfl
@[simp] theorem State.commitRecord_response (s : State) (r : Fin 32 → SlotResult) :
    (s.commitRecord r).response = s.response := rfl

/-! Fields after `respond`. -/

@[simp] theorem State.respond_cfg (s : State) (r : Response) : (s.respond r).cfg = s.cfg := rfl
@[simp] theorem State.respond_pending (s : State) (r : Response) : (s.respond r).pending = s.pending := rfl
@[simp] theorem State.respond_status (s : State) (r : Response) : (s.respond r).status = s.status := rfl
@[simp] theorem State.respond_ctrl (s : State) (r : Response) : (s.respond r).ctrl = s.ctrl := rfl
@[simp] theorem State.respond_ctrlAtAcceptance (s : State) (r : Response) :
    (s.respond r).ctrlAtAcceptance = s.ctrlAtAcceptance := rfl
@[simp] theorem State.respond_hexcnt (s : State) (r : Response) : (s.respond r).hexcnt = s.hexcnt := rfl
@[simp] theorem State.respond_keys (s : State) (r : Response) : (s.respond r).keys = s.keys := rfl
@[simp] theorem State.respond_opBase (s : State) (r : Response) : (s.respond r).opBase = s.opBase := rfl
@[simp] theorem State.respond_opExp (s : State) (r : Response) : (s.respond r).opExp = s.opExp := rfl
@[simp] theorem State.respond_opMod (s : State) (r : Response) : (s.respond r).opMod = s.opMod := rfl
@[simp] theorem State.respond_opRes (s : State) (r : Response) : (s.respond r).opRes = s.opRes := rfl
@[simp] theorem State.respond_mem (s : State) (r : Response) : (s.respond r).mem = s.mem := rfl
@[simp] theorem State.respond_ptLen (s : State) (r : Response) : (s.respond r).ptLen = s.ptLen := rfl
@[simp] theorem State.respond_recValid (s : State) (r : Response) : (s.respond r).recValid = s.recValid := rfl
@[simp] theorem State.respond_recComplete (s : State) (r : Response) : (s.respond r).recComplete = s.recComplete := rfl
@[simp] theorem State.respond_fieldValid (s : State) (r : Response) : (s.respond r).fieldValid = s.fieldValid := rfl
@[simp] theorem State.respond_ft (s : State) (r : Response) : (s.respond r).ft = s.ft := rfl
@[simp] theorem State.respond_fv (s : State) (r : Response) : (s.respond r).fv = s.fv := rfl
@[simp] theorem State.respond_schedule (s : State) (r : Response) : (s.respond r).schedule = s.schedule := rfl
@[simp] theorem State.respond_response (s : State) (r : Response) : (s.respond r).response = some r := rfl

/-! Fields after `setKey`. -/

@[simp] theorem State.setKey_cfg (s : State) (k : Nat) (x : KeySlot) : (s.setKey k x).cfg = s.cfg := rfl
@[simp] theorem State.setKey_pending (s : State) (k : Nat) (x : KeySlot) : (s.setKey k x).pending = s.pending := rfl
@[simp] theorem State.setKey_status (s : State) (k : Nat) (x : KeySlot) : (s.setKey k x).status = s.status := rfl
@[simp] theorem State.setKey_ctrl (s : State) (k : Nat) (x : KeySlot) : (s.setKey k x).ctrl = s.ctrl := rfl
@[simp] theorem State.setKey_ctrlAtAcceptance (s : State) (k : Nat) (x : KeySlot) :
    (s.setKey k x).ctrlAtAcceptance = s.ctrlAtAcceptance := rfl
@[simp] theorem State.setKey_hexcnt (s : State) (k : Nat) (x : KeySlot) : (s.setKey k x).hexcnt = s.hexcnt := rfl
@[simp] theorem State.setKey_keys (s : State) (k : Nat) (x : KeySlot) : (s.setKey k x).keys = s.keys.set k x := rfl
@[simp] theorem State.setKey_opBase (s : State) (k : Nat) (x : KeySlot) : (s.setKey k x).opBase = s.opBase := rfl
@[simp] theorem State.setKey_opExp (s : State) (k : Nat) (x : KeySlot) : (s.setKey k x).opExp = s.opExp := rfl
@[simp] theorem State.setKey_opMod (s : State) (k : Nat) (x : KeySlot) : (s.setKey k x).opMod = s.opMod := rfl
@[simp] theorem State.setKey_opRes (s : State) (k : Nat) (x : KeySlot) : (s.setKey k x).opRes = s.opRes := rfl
@[simp] theorem State.setKey_mem (s : State) (k : Nat) (x : KeySlot) : (s.setKey k x).mem = s.mem := rfl
@[simp] theorem State.setKey_ptLen (s : State) (k : Nat) (x : KeySlot) : (s.setKey k x).ptLen = s.ptLen := rfl
@[simp] theorem State.setKey_recValid (s : State) (k : Nat) (x : KeySlot) : (s.setKey k x).recValid = s.recValid := rfl
@[simp] theorem State.setKey_recComplete (s : State) (k : Nat) (x : KeySlot) :
    (s.setKey k x).recComplete = s.recComplete := rfl
@[simp] theorem State.setKey_fieldValid (s : State) (k : Nat) (x : KeySlot) :
    (s.setKey k x).fieldValid = s.fieldValid := rfl
@[simp] theorem State.setKey_ft (s : State) (k : Nat) (x : KeySlot) : (s.setKey k x).ft = s.ft := rfl
@[simp] theorem State.setKey_fv (s : State) (k : Nat) (x : KeySlot) : (s.setKey k x).fv = s.fv := rfl
@[simp] theorem State.setKey_schedule (s : State) (k : Nat) (x : KeySlot) : (s.setKey k x).schedule = s.schedule := rfl
@[simp] theorem State.setKey_response (s : State) (k : Nat) (x : KeySlot) : (s.setKey k x).response = s.response := rfl

/-! Fields after `setFieldEntry`. -/

@[simp] theorem State.setFieldEntry_cfg (s : State) (i : Fin 32) (f : FieldEntry) :
    (s.setFieldEntry i f).cfg = s.cfg := rfl
@[simp] theorem State.setFieldEntry_pending (s : State) (i : Fin 32) (f : FieldEntry) :
    (s.setFieldEntry i f).pending = s.pending := rfl
@[simp] theorem State.setFieldEntry_status (s : State) (i : Fin 32) (f : FieldEntry) :
    (s.setFieldEntry i f).status = s.status := rfl
@[simp] theorem State.setFieldEntry_ctrl (s : State) (i : Fin 32) (f : FieldEntry) :
    (s.setFieldEntry i f).ctrl = s.ctrl := rfl
@[simp] theorem State.setFieldEntry_ctrlAtAcceptance (s : State) (i : Fin 32) (f : FieldEntry) :
    (s.setFieldEntry i f).ctrlAtAcceptance = s.ctrlAtAcceptance := rfl
@[simp] theorem State.setFieldEntry_hexcnt (s : State) (i : Fin 32) (f : FieldEntry) :
    (s.setFieldEntry i f).hexcnt = s.hexcnt := rfl
@[simp] theorem State.setFieldEntry_keys (s : State) (i : Fin 32) (f : FieldEntry) :
    (s.setFieldEntry i f).keys = s.keys := rfl
@[simp] theorem State.setFieldEntry_opBase (s : State) (i : Fin 32) (f : FieldEntry) :
    (s.setFieldEntry i f).opBase = s.opBase := rfl
@[simp] theorem State.setFieldEntry_opExp (s : State) (i : Fin 32) (f : FieldEntry) :
    (s.setFieldEntry i f).opExp = s.opExp := rfl
@[simp] theorem State.setFieldEntry_opMod (s : State) (i : Fin 32) (f : FieldEntry) :
    (s.setFieldEntry i f).opMod = s.opMod := rfl
@[simp] theorem State.setFieldEntry_opRes (s : State) (i : Fin 32) (f : FieldEntry) :
    (s.setFieldEntry i f).opRes = s.opRes := rfl
@[simp] theorem State.setFieldEntry_mem (s : State) (i : Fin 32) (f : FieldEntry) :
    (s.setFieldEntry i f).mem = s.mem := rfl
@[simp] theorem State.setFieldEntry_ptLen (s : State) (i : Fin 32) (f : FieldEntry) :
    (s.setFieldEntry i f).ptLen = s.ptLen := rfl
@[simp] theorem State.setFieldEntry_recValid (s : State) (i : Fin 32) (f : FieldEntry) :
    (s.setFieldEntry i f).recValid = s.recValid := rfl
@[simp] theorem State.setFieldEntry_recComplete (s : State) (i : Fin 32) (f : FieldEntry) :
    (s.setFieldEntry i f).recComplete = s.recComplete := rfl
@[simp] theorem State.setFieldEntry_fieldValid (s : State) (i : Fin 32) (f : FieldEntry) :
    (s.setFieldEntry i f).fieldValid = s.fieldValid := rfl
@[simp] theorem State.setFieldEntry_ft (s : State) (i : Fin 32) (f : FieldEntry) :
    (s.setFieldEntry i f).ft = s.ft.set i f := rfl
@[simp] theorem State.setFieldEntry_fv (s : State) (i : Fin 32) (f : FieldEntry) :
    (s.setFieldEntry i f).fv = s.fv := rfl
@[simp] theorem State.setFieldEntry_schedule (s : State) (i : Fin 32) (f : FieldEntry) :
    (s.setFieldEntry i f).schedule = s.schedule := rfl
@[simp] theorem State.setFieldEntry_response (s : State) (i : Fin 32) (f : FieldEntry) :
    (s.setFieldEntry i f).response = s.response := rfl

end Sys2Proof.Machine
end

