-- ==== Sys2Proof/Laws/Ops.lean ====
section
/-! SUPPORT. For each shared operation, one lemma that says once everything it can do. -/

namespace Sys2Proof.Machine

/-- A guarded write is dropped with OVERRUN while busy and performed otherwise. -/
theorem State.guarded_cases (s t : State) :
    (s.status.busy = true ∧ s.guarded t = s.markOverrun) ∨ (s.status.busy = false ∧ s.guarded t = t) := by
  cases h : s.status.busy <;> simp [State.guarded, h]

/-- A key write is dropped with its flags while locked, with OVERRUN while only busy, and performed otherwise. -/
theorem State.guardedKey_cases (s t : State) :
    (s.ctrl.keyLock = true ∧ s.status.busy = true ∧ s.guardedKey t = s.markOverrun.markLockViolation) ∨
    (s.ctrl.keyLock = true ∧ s.status.busy = false ∧ s.guardedKey t = s.markLockViolation) ∨
    (s.ctrl.keyLock = false ∧ s.status.busy = true ∧ s.guardedKey t = s.markOverrun) ∨
    (s.ctrl.keyLock = false ∧ s.status.busy = false ∧ s.guardedKey t = t) := by
  cases h : s.status.busy <;> cases h' : s.ctrl.keyLock <;> simp [State.guardedKey, State.guarded, h, h']

/-- Everything a host read does to the state: the port answers. -/
theorem busRead_eq (size : AccessSize) (off : Nat) (s : State) :
    ∃ r, busRead size off s = s.respond r := by
  unfold busRead
  split
  · exact ⟨_, rfl⟩
  · exact ⟨_, rfl⟩

/-- Everything a host write does to the state: nothing if it is not performed, else the write of the register at the offset;
then the port answers. -/
theorem busWrite_cases (size : AccessSize) (off : Nat) (v : Word) (s : State) :
    (∃ r, busWrite size off v s = s.respond r) ∨
    (size = .w32 ∧ off % 4 = 0 ∧
      ∃ r, busWrite size off v s = (writeReg s v (regAt s.cfg.keySlots off)).respond r) := by
  unfold busWrite
  split
  · next h =>
    simp only [performed, Bool.and_eq_true, decide_eq_true_eq] at h
    exact .inr ⟨h.1, h.2, _, rfl⟩
  · exact .inl ⟨_, rfl⟩

/-- An offset lies in the window exactly when the block decodes its address. -/
theorem windowOffset_some {c : Config} {addr off : Nat} (h : windowOffset c addr = some off) :
    addr = c.base + off ∧ off < 0x5000 := by
  unfold windowOffset at h
  split at h
  · next hc =>
    simp only [Option.some.injEq] at h
    simp only [windowSize] at hc
    omega
  · cases h

theorem windowOffset_base (c : Config) {off : Nat} (h : off < 0x5000) : windowOffset c (c.base + off) = some off := by
  have : c.base + off - c.base = off := by omega
  simp [windowOffset, this, h]

/-- Everything one event can do. -/
theorem takeEvent_cases {e : Event} {s t : State} (h : takeEvent e s = .next t) :
    (e = .engine ∧ completePending s = .next t) ∨
    (e = .reset ∧ t = s.assertReset) ∨
    (∃ size addr off, e = .read size addr ∧ windowOffset s.cfg addr = some off ∧ t = busRead size off s) ∨
    (∃ size addr v off, e = .write size addr v ∧ windowOffset s.cfg addr = some off ∧ t = busWrite size off v s) := by
  cases e with
  | engine => exact .inl ⟨rfl, h⟩
  | reset =>
    simp only [takeEvent, Host.Outcome.next.injEq] at h
    exact .inr (.inl ⟨rfl, h.symm⟩)
  | read size addr =>
    simp only [takeEvent] at h
    split at h
    · cases h
    · next off hoff =>
      simp only [Host.Outcome.next.injEq] at h
      exact .inr (.inr (.inl ⟨_, _, off, rfl, hoff, h.symm⟩))
  | write size addr v =>
    simp only [takeEvent] at h
    split at h
    · cases h
    · next off hoff =>
      simp only [Host.Outcome.next.injEq] at h
      exact .inr (.inr (.inr ⟨_, _, _, off, rfl, hoff, h.symm⟩))

/-- Everything the engine's step can do: nothing with nothing pending, a command's meaning, or an illegal completion. -/
theorem completePending_cases {s t : State} (h : completePending s = .next t) :
    (s.pending = none ∧ t = s) ∨
    (∃ w i, s.pending = some w ∧ decode s.cfg.keySlots w = .command i ∧ exec i s = .next t) ∨
    (∃ w why, s.pending = some w ∧ decode s.cfg.keySlots w = .illegal why ∧ t = s.complete .illegalCommand) := by
  unfold completePending at h
  split at h
  · next hp =>
    simp only [Host.Outcome.next.injEq] at h
    exact .inl ⟨hp, h.symm⟩
  · next w hp =>
    split at h
    · next i hd => exact .inr (.inl ⟨w, i, hp, hd, h⟩)
    · next why hd =>
      simp only [Host.Outcome.next.injEq] at h
      exact .inr (.inr ⟨w, why, hp, hd, h.symm⟩)

/-- Everything one step can do: the engine's step when no event is left, else the next event. -/
theorem step_cases {s t : State} (h : step s = .next t) :
    (s.schedule = [] ∧ completePending s = .next t) ∨
    (∃ e rest, s.schedule = e :: rest ∧ takeEvent e { s with schedule := rest } = .next t) := by
  unfold step stepSchedule at h
  split at h
  · next hs => exact .inl ⟨hs, h⟩
  · next e rest hs => exact .inr ⟨e, rest, hs, h⟩

/-- Everything decrypt_fn can answer, with its cause. -/
theorem decryptFn_cases (hexcnt : Nat) (c : List Byte) (n e : Nat) :
    (hexcnt ≠ 1440 ∧ decryptFn hexcnt c n e = .error .invalidInput) ∨
    (hexcnt = 1440 ∧ n ≤ 1 ∧ decryptFn hexcnt c n e = .error .crypto) ∨
    (hexcnt = 1440 ∧ 1 < n ∧ decryptFn hexcnt c n e =
      .ok ((List.range 5).flatMap fun b => decryptBlock (cipherBlock c b) n e)) := by
  by_cases h : hexcnt = 1440
  · by_cases hn : n ≤ 1
    · exact .inr (.inl ⟨h, hn, by simp [decryptFn, h, hn]⟩)
    · exact .inr (.inr ⟨h, by omega, by simp [decryptFn, h, hn]⟩)
  · exact .inl ⟨h, by simp [decryptFn, h]⟩

/-- Everything decode_fn can answer, with its cause. -/
theorem decodeFn_cases (p : List Byte) (n : Nat) (ft : Vector FieldEntry 32) :
    (n ≠ 640 ∧ decodeFn p n ft = .error .malformedRecord) ∨
    (n = 640 ∧ decodeFn p n ft = .ok fun i => slotResult ft[i.val] p) := by
  by_cases h : n = 640
  · exact .inr ⟨h, by simp [decodeFn, h]⟩
  · exact .inl ⟨h, by simp [decodeFn, h]⟩

/-- Everything MODPOW can do. -/
theorem execModpow_cases {s t : State} (h : execModpow s = .next t) :
    (s.opMod.toNat = 0 ∧ t = (s.setResult 0#1024).complete .crypto) ∨
    (s.opMod.toNat ≠ 0 ∧
      t = (s.setResult (BitVec.ofNat 1024 (modpow s.opBase.toNat s.opExp.toNat s.opMod.toNat))).complete .none) := by
  unfold execModpow at h
  split at h
  · next hm =>
    simp only [Host.Outcome.next.injEq] at h
    exact .inl ⟨hm, h.symm⟩
  · next hm =>
    simp only [Host.Outcome.next.injEq] at h
    exact .inr ⟨hm, h.symm⟩

/-- Everything DECRYPT can do. -/
theorem execDecrypt_cases {k : Byte} {s t : State} (h : execDecrypt k s = .next t) :
    (s.cfg.keySlots ≤ k.toNat ∧ t = s.complete .illegalCommand) ∨
    (k.toNat < s.cfg.keySlots ∧ ∃ p, s.decryptWith k = .ok p ∧ t = (s.commitPlaintext p).complete .none) ∨
    (k.toNat < s.cfg.keySlots ∧ ∃ e, s.decryptWith k = .error e ∧ t = s.failDecrypt.complete e) := by
  unfold execDecrypt at h
  split at h
  · next hk =>
    split at h
    · next p hp =>
      simp only [Host.Outcome.next.injEq] at h
      exact .inr (.inl ⟨hk, p, hp, h.symm⟩)
    · next e he =>
      simp only [Host.Outcome.next.injEq] at h
      exact .inr (.inr ⟨hk, e, he, h.symm⟩)
  · next hk =>
    simp only [Host.Outcome.next.injEq] at h
    exact .inl ⟨by omega, h.symm⟩

/-- Everything DECODE can do. -/
theorem execDecode_cases {s t : State} (h : execDecode s = .next t) :
    (s.ptLen.toNat = 640 ∧ t = (s.commitRecord fun i => slotResult s.ft[i.val] s.pt).complete .none) ∨
    (s.ptLen.toNat ≠ 640 ∧ t = s.clearRecord.complete .malformedRecord) := by
  unfold execDecode at h
  rcases decodeFn_cases s.pt s.ptLen.toNat s.ft with ⟨hn, hd⟩ | ⟨hn, hd⟩ <;> rw [hd] at h <;>
    simp only [Host.Outcome.next.injEq] at h
  · exact .inr ⟨hn, h.symm⟩
  · exact .inl ⟨hn, h.symm⟩

/-- Everything DECRYPT_DECODE can do. -/
theorem execDecryptDecode_cases {k : Byte} {s t : State} (h : execDecryptDecode k s = .next t) :
    (s.cfg.keySlots ≤ k.toNat ∧ t = s.complete .illegalCommand) ∨
    (k.toNat < s.cfg.keySlots ∧ ∃ p, s.decryptWith k = .ok p ∧
      t = (s.commitPlaintext p).decodeCommitted.complete .none) ∨
    (k.toNat < s.cfg.keySlots ∧ ∃ e, s.decryptWith k = .error e ∧ t = s.failDecrypt.complete e) := by
  unfold execDecryptDecode at h
  split at h
  · next hk =>
    split at h
    · next p hp =>
      simp only [Host.Outcome.next.injEq] at h
      exact .inr (.inl ⟨hk, p, hp, h.symm⟩)
    · next e he =>
      simp only [Host.Outcome.next.injEq] at h
      exact .inr (.inr ⟨hk, e, he, h.symm⟩)
  · next hk =>
    simp only [Host.Outcome.next.injEq] at h
    exact .inl ⟨by omega, h.symm⟩

@[simp] theorem length_bytesBE (x w : Nat) : (bytesBE x w).length = w := by simp [bytesBE]

@[simp] theorem State.length_ct (s : State) : s.ct.length = 720 := by simp [State.ct]

@[simp] theorem State.length_pt (s : State) : s.pt.length = 640 := by simp [State.pt]

/-- Everything the store of a digit or of nothing does to the buffers (40_input_normalizer.md R124). -/
theorem read_ctAfterDigit (s : State) (v a : Nat) :
    (ctAfterDigit s v).read a =
      if s.hexcnt.toNat < 1440 ∧ a = 0x2000 + s.hexcnt.toNat / 2 then
        nibbleInto s.hexcnt.toNat (s.ctByte (s.hexcnt.toNat / 2)) v
      else s.mem.read a := by
  by_cases h : s.hexcnt.toNat < 1440
  · simp only [ctAfterDigit, hexLen, ctBase, h, if_true, true_and]
    rw [Memory.read_store]
    by_cases ha : a = 0x2000 + s.hexcnt.toNat / 2
    · subst ha
      simp
    · rw [if_neg (by simp only [List.length_singleton]; omega), if_neg ha]
  · simp [ctAfterDigit, h]

/-- The count after a digit, as a number (10_state.md R31). -/
theorem toNat_countAfterDigit (n : BitVec 16) : (countAfterDigit n).toNat = min (n.toNat + 1) 0xFFFF := by
  unfold countAfterDigit
  have := n.isLt
  split
  · rw [BitVec.toNat_add]
    simp
    omega
  · omega

/-- A word of a big-integer register after the write of a word (20_memory.md R62). -/
theorem bigWord_setBigWord (x : Big) (j l : Fin 32) (w : Word) :
    bigWord (setBigWord x j w) l = if l = j then w else bigWord x l := by
  have hj := j.isLt
  have hl := l.isLt
  ext i hi
  simp only [bigWord, setBigWord, BitVec.getElem_extractLsb', BitVec.getLsbD_or, BitVec.getLsbD_and, BitVec.getLsbD_not,
    BitVec.getLsbD_shiftLeft, BitVec.getLsbD_setWidth, BitVec.getLsbD_allOnes]
  have h1024 : 32 * l.val + i < 1024 := by omega
  by_cases h : l = j
  · subst h
    have e1 : ¬ 32 * l.val + i < 32 * l.val := by omega
    have e2 : 32 * l.val + i - 32 * l.val = i := by omega
    have e3 : i < 1024 := by omega
    simp [e3, hi, h1024, BitVec.getLsbD_eq_getElem]
  · have hne : l.val ≠ j.val := fun he => h (Fin.ext he)
    rcases Nat.lt_or_gt_of_ne hne with hlt | hgt
    · have e1 : 32 * l.val + i < 32 * j.val := by omega
      simp [h, e1, h1024, BitVec.getLsbD_eq_getElem]
    · have e1 : ¬ 32 * l.val + i < 32 * j.val := by omega
      have e2 : ¬ 32 * l.val + i - 32 * j.val < 32 := by omega
      have e3 : w.getLsbD (32 * l.val + i - 32 * j.val) = false := BitVec.getLsbD_of_ge _ _ (by omega)
      simp [h, e1, e2, e3, h1024, BitVec.getLsbD_eq_getElem]

end Sys2Proof.Machine
end

