-- ==== Sys2Proof/Laws/Commands.lean ====
section
/-! SUPPORT. What the functions of the cryptor and the decoder can answer, for the proofs about commands. -/

namespace Sys2Proof.Machine

/-- No command stops (60_exceptions.md R223). -/
theorem exec_next (i : Instr) (s : State) : ∃ t, exec i s = .next t := by
  cases i with
  | nop => exact ⟨_, rfl⟩
  | clearInput => exact ⟨_, rfl⟩
  | pushHex c => exact ⟨_, rfl⟩
  | modpow =>
    simp only [exec, execModpow]
    split <;> exact ⟨_, rfl⟩
  | decrypt k =>
    simp only [exec, execDecrypt]
    split
    · split <;> exact ⟨_, rfl⟩
    · exact ⟨_, rfl⟩
  | decode =>
    simp only [exec, execDecode]
    split <;> exact ⟨_, rfl⟩
  | decryptDecode k =>
    simp only [exec, execDecryptDecode]
    split
    · split <;> exact ⟨_, rfl⟩
    · exact ⟨_, rfl⟩

/-- When the decryption of a command succeeds, and what it gives. -/
theorem State.decryptWith_ok {s : State} {k : Byte} {p : List Byte} (h : s.decryptWith k = .ok p) :
    s.hexcnt.toNat = 1440 ∧ 1 < s.modulusOf k ∧ p.length = 640 ∧
      p = (List.range 5).flatMap fun b => decryptBlock (cipherBlock s.ct b) (s.modulusOf k) (s.exponentOf k) := by
  rcases decryptFn_cases s.hexcnt.toNat s.ct (s.modulusOf k) (s.exponentOf k) with ⟨_, hd⟩ | ⟨_, _, hd⟩ | ⟨h1, h2, hd⟩
  · cases h.symm.trans hd
  · cases h.symm.trans hd
  · cases h.symm.trans hd
    exact ⟨h1, h2, by simp [List.range_succ, decryptBlock], rfl⟩

/-- When the decryption of a command fails, and how. -/
theorem State.decryptWith_error {s : State} {k : Byte} {e : ErrCode} (h : s.decryptWith k = .error e) :
    (s.hexcnt.toNat ≠ 1440 ∧ e = .invalidInput) ∨ (s.hexcnt.toNat = 1440 ∧ s.modulusOf k ≤ 1 ∧ e = .crypto) := by
  rcases decryptFn_cases s.hexcnt.toNat s.ct (s.modulusOf k) (s.exponentOf k) with ⟨h1, hd⟩ | ⟨h1, h2, hd⟩ | ⟨_, _, hd⟩
  · cases h.symm.trans hd
    exact .inl ⟨h1, rfl⟩
  · cases h.symm.trans hd
    exact .inr ⟨h1, h2, rfl⟩
  · cases h.symm.trans hd

/-- The decryption reads HEXCNT, CT and the key table alone. -/
theorem State.decryptWith_congr {s t : State} (k : Byte) (hcnt : t.hexcnt = s.hexcnt) (hct : t.ct = s.ct)
    (hkeys : t.keys = s.keys) : t.decryptWith k = s.decryptWith k := by
  simp [State.decryptWith, hcnt, hct, State.key, hkeys]

/-- A plaintext does not touch CT. -/
theorem State.ct_setPlaintext (s : State) (bs : List Byte) (n : BitVec 16) : (s.setPlaintext bs n).ct = s.ct := by
  simp only [State.ct, State.setPlaintext_mem]
  exact Memory.load_store_disjoint _ _ _ _ _ (by simp)

/-- Part of a stored byte string, read back. -/
theorem Memory.load_store_part (m : Memory) (a : Nat) (bs : List Byte) (o n : Nat) (h : o + n ≤ bs.length) :
    (m.store a bs).load (a + o) n = (bs.drop o).take n := by
  refine List.ext_getElem (by simp; omega) fun i h1 h2 => ?_
  simp only [Memory.length_load] at h1
  rw [Memory.getElem_load, Memory.read_store, if_pos (by omega)]
  simp [show a + o + i - a = o + i by omega, show o + i < bs.length by omega]

/-- Block b of CT as bytes of the window (41_block_cryptor.md R146). -/
theorem cipherBlock_ct (s : State) {b : Nat} (hb : b < 5) : cipherBlock s.ct b = s.mem.load (0x2006 + 128 * b) 128 := by
  refine List.ext_getElem (by simp [cipherBlock]; omega) fun i h1 h2 => ?_
  simp only [cipherBlock, List.getElem_take, List.getElem_drop, State.ct, Memory.getElem_load]
  congr 1
  simp
  omega

/-- A byte of the plaintext. -/
theorem State.getElem?_pt (s : State) (x : Nat) : s.pt[x]? = if x < 640 then some (s.ptByte x) else none := by
  by_cases h : x < 640 <;> simp [State.pt, Memory.load, State.ptByte, h]

/-- The locate check of the model is that of 42_record_decoder.md R173. -/
theorem locatable_iff (f : FieldEntry) : locatable f = true ↔ canLocate f := by
  simp only [locatable, canLocate, Bool.and_eq_true, decide_eq_true_eq, bne_iff_ne, and_assoc]
  exact Iff.rfl

/-- The raw bytes of a slot are a prefix of its window (42_record_decoder.md R174 to R176). -/
theorem rawField_prefix (f : FieldEntry) (p : List Byte) : rawField f p <+: fieldWindow f p := by
  simp only [rawField]
  split
  · exact List.takeWhile_prefix _
  · have := List.dropWhile_suffix isFill (l := (fieldWindow f p).reverse)
    rw [← List.reverse_prefix] at this
    simpa [trimFill] using this

theorem length_rawField_le (f : FieldEntry) (p : List Byte) : (rawField f p).length ≤ f.width.toNat :=
  Nat.le_trans (rawField_prefix f p).length_le (by simp [fieldWindow])

/-- Everything a value of a slot says of it (42_record_decoder.md R181, R184). -/
theorem slotResult_value {f : FieldEntry} {p v : List Byte} (h : slotResult f p = .value v) :
    f.en = true ∧ canLocate f ∧ v = rawField f p ∧ kindOk f.kind v = true ∧ v.length ≤ 64 := by
  simp only [slotResult] at h
  split at h
  · next hen =>
    simp only [extract] at h
    split at h
    · next hok =>
      cases h
      simp only [Bool.and_eq_true] at hok
      have hl := (locatable_iff f).1 hok.1
      have := length_rawField_le f p
      exact ⟨hen, hl, rfl, hok.2, by have := hl.2.2.2.2.1; omega⟩
    · cases h
  · cases h

/-- A value as FV[i] holds it (42_record_decoder.md R186). -/
theorem valueField_spec {v : List Byte} (h : v.length ≤ 64) :
    (valueField v).len.val = v.length ∧ ∀ j : Fin 64, (valueField v).data[j.val] = v.getD j.val 0#8 :=
  ⟨by simp [valueField]; omega, fun j => by simp [valueField]⟩

/-- A slot without a value is not valid and holds the sentinel (42_record_decoder.md R183). -/
theorem SlotResult.of_no_value {r : SlotResult} (h : ∀ v, r ≠ .value v) :
    r.isValue = false ∧ r.fieldValue = FieldValue.sentinel := by
  cases r with
  | value v => exact absurd rfl (h v)
  | fieldError => exact ⟨rfl, rfl⟩
  | disabled => exact ⟨rfl, rfl⟩

/-- A slot's result depends on its own window of the plaintext alone (42_record_decoder.md R188). -/
theorem slotResult_congr {f : FieldEntry} {p q : List Byte} (h : fieldWindow f p = fieldWindow f q) :
    slotResult f p = slotResult f q := by
  simp [slotResult, extract, rawField, h]

end Sys2Proof.Machine
end

