-- ==== Sys2Proof/Laws/PerInstr.lean ====
section
/-! SUPPORT. Families of facts about every instruction, one lemma per constructor. -/

namespace Sys2Proof.Laws.EncodesInRow

/-- A command's word selects its own row of the table of 30_encoding.md R93, at every operand value. -/
def Statement (i : Instr) : Prop :=
  ∃ r ∈ commandTable, r.mnemonic = mnemonicOf i ∧ r.selects (encode i) = true

theorem nop : Statement .nop := ⟨commandTable[0], by decide⟩

theorem clearInput : Statement .clearInput := ⟨commandTable[1], by decide⟩

theorem pushHex (c : Byte) : Statement (.pushHex c) :=
  ⟨commandTable[2], by decide, rfl, by revert c; decide⟩

theorem modpow : Statement .modpow := ⟨commandTable[3], by decide⟩

theorem decrypt (k : Byte) : Statement (.decrypt k) :=
  ⟨commandTable[4], by decide, rfl, by revert k; decide⟩

theorem decode : Statement .decode := ⟨commandTable[5], by decide⟩

theorem decryptDecode (k : Byte) : Statement (.decryptDecode k) :=
  ⟨commandTable[6], by decide, rfl, by revert k; decide⟩

end Sys2Proof.Laws.EncodesInRow
end

