-- ==== Sys2Proof/Laws/Window.lean ====
section
/-! SUPPORT. Where registers stand in the window, and everything a host access can do to a busy block. -/

namespace Sys2Proof.Machine

/-- STATUS stands at offset 0x008 alone (10_state.md section 1). -/
theorem regAt_eq_status {ks off : Nat} (h : regAt ks off = .status) : off = 0x008 := by
  have arm : ∀ {p : Prop} [Decidable p] {x y : WindowReg}, x ≠ .status → y ≠ .status → (if p then x else y) ≠ .status := by
    intro p _ x y hx hy
    split <;> assumption
  by_contra h8
  refine absurd h ?_
  simp only [regAt, keyRegAt, fvRegAt, if_neg h8]
  repeat' apply arm
  all_goals
    intro hr
    cases hr

/-- FT[i].W0 stands at 0x3000 + 8·i (10_state.md R41). -/
theorem regAt_ftW0 (ks : Nat) (i : Fin 32) : regAt ks (0x3000 + 8 * i.val) = .ftW0 i := by
  have := i.isLt
  simp only [regAt]
  repeat rw [if_neg (by omega)]
  rw [if_pos (by omega), if_pos (by omega)]
  exact congrArg _ (Fin.ext (by simp))

/-- FT[i].W1 stands at 0x3004 + 8·i (10_state.md R42). -/
theorem regAt_ftW1 (ks : Nat) (i : Fin 32) : regAt ks (0x3004 + 8 * i.val) = .ftW1 i := by
  have := i.isLt
  simp only [regAt]
  repeat rw [if_neg (by omega)]
  rw [if_pos (by omega), if_neg (by omega)]
  exact congrArg _ (Fin.ext (by simp; omega))

/-- FV[i].LEN stands at 0x4000 + 0x80·i (10_state.md R44). -/
theorem regAt_fvLen (ks : Nat) (i : Fin 32) : regAt ks (0x4000 + 0x80 * i.val) = .fvLen i := by
  have := i.isLt
  simp only [regAt]
  repeat rw [if_neg (by omega)]
  rw [if_pos (by omega), fvRegAt, if_pos (by omega)]
  exact congrArg _ (Fin.ext (by simp))

/-- KEY[k].VERSION_ID stands at 0x1000 + 0x200·k (10_state.md R33). -/
theorem regAt_keyVersion {ks k : Nat} (h : k < ks) (h8 : k < 8) : regAt ks (0x1000 + 0x200 * k) = .keyVersion k := by
  simp only [regAt]
  repeat rw [if_neg (by omega)]
  rw [if_pos (by omega)]
  simp only [keyRegAt]
  rw [if_neg (by omega), if_pos (by omega)]
  exact congrArg _ (by omega)

/-- Everything the write of a register does while busy: DONE, the sticky flags and CTRL at most
(70_reset_and_hazards.md R266). -/
theorem writeReg_busy {s : State} (hb : s.status.busy = true) (v : Word) (r : WindowReg) :
    ∃ o l d c, writeReg s v r =
      { s with status := { s.status with overrun := o, lockViolation := l, done := d }, ctrl := c } := by
  have same : ∃ o l d c, s =
      { s with status := { s.status with overrun := o, lockViolation := l, done := d }, ctrl := c } :=
    ⟨s.status.overrun, s.status.lockViolation, s.status.done, s.ctrl, rfl⟩
  have guarded : ∀ t : State, s.guarded t = s.markOverrun := fun t => by simp [State.guarded, hb]
  cases r <;> simp only [writeReg, State.guardedKey, guarded] <;>
    first
    | exact same
    | exact ⟨_, _, _, _, rfl⟩
    | (repeat' split) <;> exact ⟨_, _, _, _, rfl⟩

/-- Everything a host access does while busy: as a write of a register, and the port answers. -/
theorem takeEvent_busy {e : Event} {s t : State} (hb : s.status.busy = true) (he : e ≠ .engine) (hr : e ≠ .reset)
    (h : takeEvent e s = .next t) :
    ∃ o l d c q, t =
      { s with
        status := { s.status with overrun := o, lockViolation := l, done := d }, ctrl := c, response := q } := by
  rcases takeEvent_cases h with ⟨rfl, _⟩ | ⟨rfl, _⟩ | ⟨size, addr, off, _, _, rfl⟩ | ⟨size, addr, v, off, _, _, rfl⟩
  · exact absurd rfl he
  · exact absurd rfl hr
  · obtain ⟨r, hq⟩ := busRead_eq size off s
    exact ⟨s.status.overrun, s.status.lockViolation, s.status.done, s.ctrl, some r, hq⟩
  · rcases busWrite_cases size off v s with ⟨r, hq⟩ | ⟨_, _, r, hq⟩
    · exact ⟨s.status.overrun, s.status.lockViolation, s.status.done, s.ctrl, some r, hq⟩
    · obtain ⟨o, l, d, c, hw⟩ := writeReg_busy hb v (regAt s.cfg.keySlots off)
      exact ⟨o, l, d, c, some r, by rw [hq, hw]; rfl⟩

end Sys2Proof.Machine
end

