-- ==== Sys2Proof/Tests/Slice0.lean ====
section
/-! SUPPORT. The model's own tests: ill-formed terms refused, words decoded, one step of each command, and for each statement
with hypotheses a state and operands that meet them. Expected values come from 95_test_vectors.md or are worked by hand from
the rule a comment names. -/

open Sys2Proof Sys2Proof.Machine

-- The kernel's evaluations run one after another, so that they do not share the memory of the check.
set_option Elab.async false

/-! Helpers. -/

/-- The next state of an outcome, if it is one. -/
def Tests.next? : Host.Outcome State Fault Refusal → Option State
  | .next t => some t
  | .fault _ => none
  | .refused _ => none

/-- A launch with all eight key slots. -/
def Tests.eightSlots : Config := { keySlots := 8, base := 0x10000 }

/-- n = 35, e = 5 in slot 0, 1440 digits pushed: bytes AA to DD of the header, and block 0 the number 2. -/
def Tests.ready : State :=
  { State.reset with
    hexcnt := 1440#16
    keys := [{ versionId := 1#32, modulus := 35#1024, exponent := 5#1024 }]
    mem := { cells := [(0x2000, 0xAA#8), (0x2001, 0xBB#8), (0x2002, 0xCC#8), (0x2003, 0xDD#8), (0x2085, 0x02#8)] } }

/-- A slot of the field table. -/
def Tests.slot (offset : BitVec 16) (width fieldId : Byte) (kind : BitVec 2) (rule : Bool) (term : Byte) : FieldEntry :=
  { offset := offset, width := width, term := term, fieldId := fieldId, elem := 0#4, kind := kind, rule := rule, en := true }

/-- Some rows of program P3: PT[100..103] = "ZAZA", PT[220..227] = "19800229", PT[260..263] = "EB", 00, "X". -/
def Tests.p3 : State :=
  { State.reset with
    ptLen := 640#16
    mem := { cells :=
      [(0x2464, 0x5A#8), (0x2465, 0x41#8), (0x2466, 0x5A#8), (0x2467, 0x41#8),
       (0x24DC, 0x31#8), (0x24DD, 0x39#8), (0x24DE, 0x38#8), (0x24DF, 0x30#8),
       (0x24E0, 0x30#8), (0x24E1, 0x32#8), (0x24E2, 0x32#8), (0x24E3, 0x39#8),
       (0x2504, 0x45#8), (0x2505, 0x42#8), (0x2507, 0x58#8)] }
    ft := (((((State.reset.ft.set 0 (Tests.slot 100#16 2#8 5#8 0#2 false 0#8)).set 1
      (Tests.slot 102#16 2#8 6#8 0#2 false 0#8)).set 3 (Tests.slot 220#16 8#8 12#8 2#2 false 0#8)).set 6
      (Tests.slot 260#16 8#8 7#8 0#2 true 0#8)).set 9 (Tests.slot 630#16 16#8 2#8 0#2 false 0#8)) }

/-- All 18 record fields, each with a slot whose window is zero bytes. -/
def Tests.allFields : State :=
  { State.reset with
    ptLen := 640#16
    ft := Vector.ofFn fun i : Fin 32 =>
      if i.val < 18 then Tests.slot 0#16 4#8 (BitVec.ofNat 8 (i.val + 1)) 0#2 false 0#8 else FieldEntry.reset }

/-- A command pending, as after its acceptance, with the schedule to come. -/
def Tests.busy (w : Word) (events : List Event) : State := { State.reset.accept w with schedule := events }

/-- Eight slots, nothing pending, with the schedule to come. -/
def Tests.idle (events : List Event) : State := { State.resetOf Tests.eightSlots with schedule := events }

/-- A host access of an offset of the window of `Tests.eightSlots`. -/
def Tests.write (off : Nat) (v : Word) : Event := .write .w32 (0x10000 + off) v

/-! Ill-formed terms are refused. -/

theorem test_wf_decrypt : Instr.wf 1 (.decrypt 0x01#8) = false := by decide
theorem test_wf_decryptDecode : Instr.wf 8 (.decryptDecode 0x08#8) = false := by decide
theorem test_wf_no_slots : Config.wf { keySlots := 0, base := 0 } = false := by decide
theorem test_wf_nine_slots : Config.wf { keySlots := 9, base := 0 } = false := by decide
theorem test_memory_wf_order : ¬ Memory.wf { cells := [(0x2001, 1#8), (0x2000, 1#8)] } := by decide
theorem test_memory_wf_listed_zero : ¬ Memory.wf { cells := [(0x2000, 0#8)] } := by decide

/-! Decoding, words from 95_test_vectors.md section 2.1: bits [31:16] are RSV, [15:8] ARG, [7:0] OPC. -/

theorem test_decode_nop : decode 1 0b00000000000000000000000000000000#32 = .command .nop := by decide
theorem test_decode_clearInput : decode 1 0b00000000000000000000000000000001#32 = .command .clearInput := by decide
theorem test_decode_pushHex : decode 1 0b00000000000000000100000100000010#32 = .command (.pushHex 0x41#8) := by decide
theorem test_decode_modpow : decode 1 0b00000000000000000000000000010000#32 = .command .modpow := by decide
theorem test_decode_decrypt : decode 2 0b00000000000000000000000100010001#32 = .command (.decrypt 1#8) := by decide
theorem test_decode_decode : decode 1 0b00000000000000000000000000100000#32 = .command .decode := by decide
theorem test_decode_decryptDecode :
    decode 1 0b00000000000000000000000000110000#32 = .command (.decryptDecode 0#8) := by decide
theorem test_decode_illegal :
    [0x00000100#32, 0x00000120#32, 0x00000003#32, 0x000000FF#32, 0x00010000#32, 0x80000002#32, 0x00000111#32].map (decode 1)
      = [.illegal .argNotZero, .illegal .argNotZero, .illegal .unassignedOpcode, .illegal .unassignedOpcode,
         .illegal .reservedBits, .illegal .reservedBits, .illegal .keySlotOutOfRange] := by decide
theorem test_decodeTableWord :
    [0x00000000, 0x00006602, 0x00000011, 0x00000111].map (decodeTableWord 32)
      = [some .nop, some (.pushHex 0x66#8), some (.decrypt 0#8), none] := by decide

/-! One step of each command. -/

/-- 95_test_vectors.md P7: NOP with IRQ_EN = 1 raises DONE and irq. -/
theorem test_nop_irq :
    (Tests.next? (step { Tests.busy 0x00000000#32 [] with ctrl := { irqEn := true, keyLock := false } })).map
      (fun t => (statusWord t.status, irq t)) = some (0x00000002#32, true) := by decide

/-- 95_test_vectors.md 2.2: CLEAR_INPUT gives HEXCNT 0 and CT zero and leaves PT. -/
theorem test_clearInput :
    (Tests.next? (exec .clearInput { Tests.ready with mem := { cells := [(0x22CF, 0x77#8), (0x2400, 0x5A#8)] } })).map
      (fun t => (t.hexcnt, t.mem.cells)) = some (0#16, [(0x2400, 0x5A#8)]) := by decide +kernel

/-- 95_test_vectors.md 2.2: "0x1F" leaves HEXCNT 3 and CT 01 F0 00. -/
theorem test_pushHex_text :
    (Tests.next? (execAll [.pushHex 0x30#8, .pushHex 0x78#8, .pushHex 0x31#8, .pushHex 0x46#8] State.reset)).map
      (fun t => (t.hexcnt, t.mem.load 0x2000 3)) = some (3#16, [0x01#8, 0xF0#8, 0x00#8]) := by decide +kernel

/-- 95_test_vectors.md 2.2: the 1441st digit counts and is not stored. -/
theorem test_pushHex_1441 :
    (Tests.next? (exec (.pushHex 0x46#8) Tests.ready)).map (fun t => (t.hexcnt, decide (t.mem = Tests.ready.mem)))
      = some (1441#16, true) := by decide +kernel

/-- 95_test_vectors.md P1: 4^13 mod 497 = 445. -/
theorem test_modpow :
    (Tests.next? (exec .modpow { State.reset with opBase := 4#1024, opExp := 13#1024, opMod := 497#1024 })).map
      (fun t => (readOffset t 0x980, statusWord t.status)) = some (0x000001BD#32, 0x00000002#32) := by decide +kernel

/-- 41_block_cryptor.md R145: OP_MOD = 0 clears OP_RES and reports CRYPTO. -/
theorem test_modpow_zero :
    (Tests.next? (exec .modpow { State.reset with opRes := 9#1024 })).map
      (fun t => (readOffset t 0x980, statusWord t.status)) = some (0#32, 0x0000000A#32) := by decide +kernel

/-- By hand: block 0 is 2, 2^5 mod 35 = 32, so PT[127] = 0x20; block 1 is 0, 0^5 mod 35 = 0. -/
theorem test_decrypt :
    (Tests.next? (exec (.decrypt 0#8) Tests.ready)).map
      (fun t => (t.ptLen, t.ptByte 126, t.ptByte 127, t.ptByte 255, readOffset t 0x2000, statusWord t.status))
      = some (640#16, 0#8, 0x20#8, 0#8, 0xDDCCBBAA#32, 0x00000002#32) := by decide +kernel

/-- 95_test_vectors.md 2.4: with HEXCNT = 0 and n = 0 InvalidInput wins over Crypto. -/
theorem test_decrypt_reset :
    (Tests.next? (exec (.decrypt 0#8) State.reset)).map (fun t => (t.ptLen, statusWord t.status))
      = some (0#16, 0x00000006#32) := by decide +kernel

/-- 95_test_vectors.md P3: slots 0, 1, 3 and 6 decode, slot 9 passes the end of PT. -/
theorem test_decode_p3 :
    (Tests.next? (exec .decode Tests.p3)).map
      (fun t => (readOffset t 0x018, readOffset t 0x01C, readOffset t 0x4040, readOffset t 0x41C0, readOffset t 0x4300,
        readOffset t 0x4340)) =
      some (1#32, 0x0000004B#32, 0x0000415A#32, 0x30383931#32, 2#32, 0x00004245#32) := by decide +kernel

/-- 95_test_vectors.md 2.5: 18 enabled slots with FIELD_ID 1 to 18, all valid: COMPLETE = 1. -/
theorem test_decode_complete :
    (Tests.next? (exec .decode Tests.allFields)).map (fun t => readOffset t 0x018) = some 3#32 := by decide +kernel

/-- By hand: as DECRYPT on the same state, with the record of a table that has one slot at PT[127]. -/
theorem test_decryptDecode :
    (Tests.next? (exec (.decryptDecode 0#8)
      { Tests.ready with ft := Tests.ready.ft.set 31 (Tests.slot 127#16 1#8 1#8 0#2 true 0#8) })).map
      (fun t => (t.ptByte 127, readOffset t 0x01C, readOffset t 0x4F80, readOffset t 0x4FC0))
      = some (0x20#8, 0x80000000#32, 1#32, 0x00000020#32) := by decide +kernel

/-- 43_sequencing.md R210: a failed DECRYPT_DECODE reports the decryption's error. -/
theorem test_decryptDecode_fails :
    (Tests.next? (exec (.decryptDecode 0#8) { Tests.ready with hexcnt := 1441#16 })).map
      (fun t => (statusWord t.status, readOffset t 0x014)) = some (0x00000006#32, 0#32) := by decide +kernel

/-- 95_test_vectors.md 2.6: what reset leaves in ID and PARAMS. -/
theorem test_reset_reads :
    (readOffset State.reset 0x000, readOffset State.reset 0x020) = (0x5341444C#32, 0x05402001#32) := by decide +kernel

/-- 95_test_vectors.md P7: a key write while locked is dropped and sets LOCK_VIOLATION. -/
theorem test_locked_key_write :
    (fun t => (readOffset t 0x1080, readOffset t 0x008))
      (busWrite .w32 0x1080 0#32 { Tests.ready with ctrl := { irqEn := true, keyLock := true } })
      = (35#32, 0x00000200#32) := by decide +kernel

/-- 20_memory.md R68 and 70_reset_and_hazards.md R266: a CTRL write while busy takes effect, and a read returns the value of
acceptance until the completion. -/
theorem test_ctrl_while_busy :
    (fun t => (readOffset t 0x00C, t.ctrl, (Tests.next? (step t)).map fun u => (readOffset u 0x00C, irq u)))
      (busWrite .w32 0x00C 3#32 (Tests.busy 0x00000000#32 []))
      = (0#32, { irqEn := true, keyLock := true }, some (3#32, true)) := by decide

/-- 10_state.md R41, R42, program P3: FT_SET 6, 260, 8, 0, 7, 0, 0, 1, 1. -/
theorem test_ft_words :
    (busWrite .w32 0x3034 0x0000C007#32 (busWrite .w32 0x3030 0x00080104#32 State.reset)).ft[6]
      = Tests.slot 260#16 8#8 7#8 0#2 true 0#8 := by decide

/-- 10_state.md R43: the ends of the table of record fields. -/
theorem test_recordFieldOf :
    [0#8, 1#8, 5#8, 18#8, 19#8, 255#8].map recordFieldOf
      = [none, some .surname, some .idCountryOfIssue, some .imageHeight, none, none] := by decide

/-! States and operands that meet the hypotheses of the statements, each statement's under its name. -/

theorem witness_DecodeOfEncode : Instr.wf 8 (.decryptDecode 0x07#8) = true ∧ Instr.wf 1 (.decrypt 0x00#8) = true := by decide

theorem witness_EncodeOfDecode : decode 8 0x00000711#32 = .command (.decrypt 0x07#8) := by decide

theorem witness_TableRowsDisjointAndSelected :
    (∃ r₁ r₂, r₁ ∈ commandTable ∧ r₂ ∈ commandTable ∧ r₁.selects 0x0000FF02#32 = true ∧ r₂.selects 0x0000FF02#32 = true) ∧
    decode 1 0x0000FF02#32 = .command (.pushHex 0xFF#8) := by
  refine ⟨⟨⟨"PUSH_HEX", 0x00000002#32, 0xFFFF00FF#32⟩, ⟨"PUSH_HEX", 0x00000002#32, 0xFFFF00FF#32⟩, ?_⟩, ?_⟩ <;> decide

theorem witness_StepRunsDecodedCommand :
    (Tests.busy 0x00000010#32 []).pending = some 0x00000010#32 ∧ decode 1 0x00000010#32 = .command .modpow ∧
    (Tests.busy 0x00000010#32 []).schedule = [] ∧
    (Tests.busy 0x00000010#32 [.engine, .reset]).schedule = .engine :: [.reset] := by decide

theorem witness_IllegalCommandChangesOnlyStatus :
    (Tests.busy 0x00010001#32 [.engine]).pending = some 0x00010001#32 ∧
    decode (Tests.busy 0x00010001#32 [.engine]).cfg.keySlots 0x00010001#32 = .illegal .reservedBits ∧
    (Tests.busy 0x00010001#32 [.engine]).schedule = .engine :: [] := by decide

theorem witness_EveryCommandCompletesInItsFrame :
    (¬ inCt 0x22D0 ∧ ¬ inPt 0x22D0) ∧ (¬ inCt 0x2680 ∧ ¬ inPt 0x2680) ∧ Instr.decode ≠ .clearInput ∧
    (∀ c, Instr.decode ≠ .pushHex c) ∧ Instr.decode ≠ .modpow := by decide

theorem witness_EveryCommandCompletesInItsFrame_rows :
    (Instr.modpow = .nop ∨ Instr.modpow = .clearInput ∨ (∃ c, Instr.modpow = .pushHex c) ∨ Instr.modpow = .modpow) ∧
    (Instr.decode = .nop ∨ Instr.decode = .modpow ∨ Instr.decode = .decode) :=
  ⟨.inr (.inr (.inr rfl)), .inr (.inr rfl)⟩

theorem witness_RepeatedCommandChangesNothing : ∀ c, Instr.decryptDecode 0#8 ≠ .pushHex c := by decide

theorem witness_NopOnlyCompletes : (1#8 ≠ 0#8) ∧ (Tests.busy 0x00000000#32 []).status.busy = true := by decide

theorem witness_ClearInputEmptiesInput :
    Tests.ready.legalSlot 0#8 ∧ ∃ t, exec .clearInput Tests.ready = .next t :=
  ⟨by unfold State.legalSlot; decide, _, rfl⟩

theorem witness_HexDigitsAndValues :
    [0x30#8, 0x39#8, 0x41#8, 0x46#8, 0x61#8, 0x66#8].map (fun c => (isHex c, hexval c))
      = [(true, 0), (true, 9), (true, 10), (true, 15), (true, 10), (true, 15)] ∧
    [0x2F#8, 0x3A#8, 0x40#8, 0x47#8, 0x60#8, 0x67#8].map isHex = List.replicate 6 false := by decide

/-- The three ranges of HEXCNT at their boundaries, and both parities. -/
theorem witness_PushHexPacksDigit :
    isHex 0x47#8 = false ∧ isHex 0x46#8 = true ∧ 1440 ≤ (1440#16).toNat ∧ (1439#16).toNat < 1440 ∧
    (1438#16).toNat % 2 = 0 ∧ (1439#16).toNat % 2 = 1 ∧ min ((0xFFFF#16).toNat + 1) 0xFFFF = 0xFFFF := by decide

theorem witness_PushedTextIsNormalised :
    State.reset.hexcnt = 0#16 ∧ ((List.replicate 1440 0x35#8).filter isHex).length = 1440 := by decide +kernel

theorem witness_BigEndianConversions :
    (0xFFFF < 2 ^ (8 * 2)) ∧ (1 ≤ 2 ∧ 0xFF < 2 ^ (8 * (2 - 1))) ∧ 1 ≤ (1#1024).toNat := by decide +kernel

theorem witness_ModpowCornerCases :
    (1 ≤ 1) ∧ (2 ≤ 2) ∧ (1 ≤ 7 ∧ 7 ≤ 7) ∧ State.reset.opMod.toNat = 0 := by decide +kernel

theorem witness_ResultFitsBlock :
    1 ≤ 2 ^ 1024 ∧ 2 ^ 1024 ≤ 2 ^ 1024 ∧ modpow 2 119 (2 ^ 1024) < 2 ^ 120 := by decide +kernel

theorem witness_ModpowCommandResult :
    State.reset.opMod.toNat = 0 ∧ { State.reset with opMod := 1#1024 }.opMod.toNat ≠ 0 := by decide +kernel

/-- The smallest usable modulus, 2, at 1440 digits. -/
theorem witness_DecryptWritesPlaintext :
    (fun s : State => s.legalSlot 0#8 ∧ s.hexcnt.toNat = 1440 ∧ 1 < s.modulusOf 0#8)
      { Tests.ready with keys := [{ versionId := 0#32, modulus := 2#1024, exponent := 0#1024 }] } := by
  unfold State.legalSlot State.modulusOf
  decide +kernel

/-- A failing length on each side of 1440, and the failing modulus 1. -/
theorem witness_FailedDecryptLeavesNoOutput :
    Tests.ready.legalSlot 0#8 ∧ { Tests.ready with hexcnt := 1439#16 }.hexcnt.toNat ≠ 1440 ∧
    { Tests.ready with hexcnt := 1441#16 }.hexcnt.toNat ≠ 1440 ∧
    (fun s : State => s.hexcnt.toNat = 1440 ∧ s.modulusOf 0#8 ≤ 1)
      { Tests.ready with keys := [{ versionId := 0#32, modulus := 1#1024, exponent := 3#1024 }] } := by
  unfold State.legalSlot State.modulusOf
  decide +kernel

theorem witness_NoCiphertextSubstituted :
    Tests.ready.legalSlot 0#8 ∧ (Tests.idle []).legalSlot 7#8 := by
  unfold State.legalSlot
  decide

/-- Two states that agree on block 4 and the key and differ in the header. -/
theorem witness_BlocksAreIndependent :
    (fun s s' : State => s.legalSlot 0#8 ∧ s'.legalSlot 0#8 ∧ s.hexcnt.toNat = 1440 ∧ s'.hexcnt.toNat = 1440 ∧
      s.modulusOf 0#8 = s'.modulusOf 0#8 ∧ s.exponentOf 0#8 = s'.exponentOf 0#8 ∧ 1 < s.modulusOf 0#8 ∧
      (∀ i, i < 128 → s.ctByte (6 + 128 * 4 + i) = s'.ctByte (6 + 128 * 4 + i)) ∧ s.mem ≠ s'.mem)
      Tests.ready { Tests.ready with mem := { cells := [] } } := by
  unfold State.legalSlot State.modulusOf State.exponentOf
  decide +kernel

/-- Buffers that differ in the last byte of the header and the first of the trailer alone. -/
theorem witness_HeaderAndTrailerHaveNoEffect :
    Tests.ready.legalSlot 0#8 ∧ ∀ a, 0x2006 ≤ a → a < 0x2286 →
      ((Tests.ready.mem.store 0x2005 [0xEE#8]).store 0x2286 [0x77#8]).read a = Tests.ready.mem.read a := by
  refine ⟨by unfold State.legalSlot; decide, fun a h1 h2 => ?_⟩
  have h : ∀ i : Fin 640, ((Tests.ready.mem.store 0x2005 [0xEE#8]).store 0x2286 [0x77#8]).read (0x2006 + i.val)
      = Tests.ready.mem.read (0x2006 + i.val) := by decide +kernel
  have ha : 0x2006 + (a - 0x2006) = a := by omega
  have := h ⟨a - 0x2006, by omega⟩
  rwa [show (0x2006 + (⟨a - 0x2006, by omega⟩ : Fin 640).val) = a from ha] at this

theorem witness_RawBytesByRule :
    (Tests.slot 0#16 4#8 1#8 0#2 false 0#8).rule = false ∧ (Tests.slot 0#16 4#8 1#8 0#2 true 0x2F#8).rule = true ∧
    rawField (Tests.slot 0#16 4#8 1#8 0#2 true 0x2F#8) [0x31#8, 0x2F#8, 0x33#8, 0x34#8] = [0x31#8] ∧
    rawField (Tests.slot 0#16 4#8 1#8 0#2 true 0x2F#8) [0x31#8, 0x32#8, 0x33#8, 0x34#8]
      = [0x31#8, 0x32#8, 0x33#8, 0x34#8] := by decide +kernel

theorem witness_TextAndNumericChecks :
    extract (Tests.slot 0#16 4#8 1#8 0#2 false 0#8) [0x41#8, 0x42#8, 0x20#8, 0x20#8] = .value [0x41#8, 0x42#8] := by
  decide +kernel

theorem witness_DateCheckIsTheCalendar :
    (Tests.slot 0#16 8#8 12#8 2#2 false 0#8).kind = 2#2 ∧
    extract (Tests.slot 0#16 8#8 12#8 2#2 false 0#8)
      [0x32#8, 0x30#8, 0x32#8, 0x34#8, 0x30#8, 0x32#8, 0x32#8, 0x39#8]
      = .value [0x32#8, 0x30#8, 0x32#8, 0x34#8, 0x30#8, 0x32#8, 0x32#8, 0x39#8] := by decide +kernel

/-- A slot with a value, one with a field error and a disabled one. -/
theorem witness_DecodeFillsRecord :
    Tests.p3.ptLen.toNat = 640 ∧ slotResult Tests.p3.ft[0] Tests.p3.pt = .value [0x5A#8, 0x41#8] ∧
    slotResult Tests.p3.ft[9] Tests.p3.pt = .fieldError ∧ slotResult Tests.p3.ft[8] Tests.p3.pt = .disabled := by
  decide +kernel

theorem witness_DecodeOfWrongLength : (639#16).toNat ≠ 640 ∧ (641#16).toNat ≠ 640 := by decide

theorem witness_CompleteFlagExactly :
    Tests.allFields.ptLen.toNat = 640 ∧ (Tests.ready.legalSlot 0#8 ∧ Tests.ready.hexcnt.toNat = 1440 ∧
      1 < Tests.ready.modulusOf 0#8) ∧
    ∀ i : Fin 32, { State.reset with ptLen := 640#16 }.ft[i.val].en = false := by
  unfold State.legalSlot State.modulusOf
  decide +kernel

theorem witness_FieldErrorsStayInTheirSlot :
    Tests.p3.ptLen.toNat = 640 ∧ Tests.p3.ft[(9 : Fin 32).val].en = true ∧
    (Tests.next? (exec .decode Tests.p3)).map (fun t => t.fieldValid[(9 : Fin 32).val]) = some false := by decide +kernel

/-- Two states with one window in common, PT[100..101], and other table entries and bytes. -/
theorem witness_SlotsAreIndependent :
    (fun s s' : State => s.ptLen.toNat = 640 ∧ s'.ptLen.toNat = 640 ∧ s.ft[(0 : Fin 32).val] = s'.ft[(0 : Fin 32).val] ∧
      s.ptByte 100 = s'.ptByte 100 ∧ s.ptByte 101 = s'.ptByte 101 ∧ s.ft[(0 : Fin 32).val].offset.toNat = 100 ∧
      s.ft[(0 : Fin 32).val].width.toNat = 2 ∧ s.ft[(1 : Fin 32).val] ≠ s'.ft[(1 : Fin 32).val] ∧ s.mem ≠ s'.mem)
      Tests.p3
      { Tests.p3 with
        mem := { cells := [(0x2464, 0x5A#8), (0x2465, 0x41#8)] }
        ft := Tests.p3.ft.set 1 FieldEntry.reset } := by decide +kernel

theorem witness_NoFabricatedData : Tests.ready.legalSlot 0#8 := by unfold State.legalSlot; decide

/-- The last place two bytes fit, PT[638..639]. -/
theorem witness_CountryCodesDecode :
    (fun s : State => s.ptLen.toNat = 640 ∧ 638 + 2 ≤ 640 ∧ s.ptByte 638 = 0x5A#8 ∧ s.ptByte (638 + 1) = 0x41#8 ∧
      s.ft[(31 : Fin 32).val].en = true ∧ s.ft[(31 : Fin 32).val].rule = false ∧ s.ft[(31 : Fin 32).val].kind = 0#2 ∧
      s.ft[(31 : Fin 32).val].offset.toNat = 638 ∧ s.ft[(31 : Fin 32).val].width.toNat = 2 ∧
      (s.ft[(31 : Fin 32).val].fieldId = 5#8 ∨ s.ft[(31 : Fin 32).val].fieldId = 6#8))
      { State.reset with
        ptLen := 640#16
        mem := { cells := [(0x267E, 0x5A#8), (0x267F, 0x41#8)] }
        ft := State.reset.ft.set 31 (Tests.slot 638#16 2#8 6#8 0#2 false 0#8) } := by decide +kernel

/-- A record slot with a value, one with none, on the plaintext the command writes. -/
theorem witness_DecryptDecodeDoesBoth :
    (fun s : State => s.legalSlot 0#8 ∧ s.hexcnt.toNat = 1440 ∧ 1 < s.modulusOf 0#8 ∧
      slotResult s.ft[(31 : Fin 32).val] ((Tests.next? (exec (.decryptDecode 0#8) s)).elim [] (·.mem.load 0x2400 640))
        = .value [0x20#8] ∧
      slotResult s.ft[(30 : Fin 32).val] ((Tests.next? (exec (.decryptDecode 0#8) s)).elim [] (·.mem.load 0x2400 640))
        = .disabled)
      { Tests.ready with ft := Tests.ready.ft.set 31 (Tests.slot 127#16 1#8 1#8 0#2 true 0#8) } := by
  unfold State.legalSlot State.modulusOf
  decide +kernel

/-- A decryption that succeeds and one that fails. -/
theorem witness_DecryptDecodeEqualsSequence :
    Tests.ready.legalSlot 0#8 ∧
    (Tests.next? (exec (.decryptDecode 0#8) Tests.ready)).map (·.status.err) = some .none ∧
    (Tests.next? (exec (.decryptDecode 0#8) State.reset)).map (·.status.err) = some .invalidInput := by
  unfold State.legalSlot
  decide +kernel

theorem witness_CommandAcceptance :
    (Tests.idle [Tests.write 0x004 0x10#32]).schedule =
      .write .w32 ((Tests.idle [Tests.write 0x004 0x10#32]).cfg.base + 0x004) 0x10#32 :: [] ∧
    (Tests.idle []).status.busy = false ∧ (Tests.busy 0#32 []).status.busy = true := by decide

/-- Each class of offsets at the ends of its ranges. -/
theorem witness_offset_classes :
    (∀ off ∈ [0x014, 0x800, 0x97C, 0x2400, 0x267C, 0x3000, 0x30FC], isGuardedOffset off) ∧
    (∀ off ∈ [0x1000, 0x1080, 0x10FC, 0x1100, 0x117C, 0x1E00, 0x1F7C], isKeyOffset 8 off) ∧
    (∀ off ∈ [0x000, 0x010, 0x018, 0x01C, 0x020, 0x980, 0x9FC, 0x2000, 0x22CC, 0x4000, 0x4040, 0x407C, 0x4FFC],
      isReadOnlyOffset off) ∧
    (∀ off ∈ [0x024, 0x7FC, 0xA00, 0xFFC, 0x22D0, 0x23FC, 0x2680, 0x2FFC, 0x3100, 0x3FFC, 0x1004, 0x107C, 0x1180, 0x11FC,
      0x1200, 0x1FFC, 0x4004, 0x403C, 0x4FBC], isUnmappedOffset 1 off) := by
  refine ⟨?_, fun off h => ?_, ?_, ?_⟩
  · unfold isGuardedOffset; decide
  · refine ⟨(off - 0x1000) / 0x200, (off - 0x1000) % 0x200, ?_⟩
    revert off; decide
  · unfold isReadOnlyOffset; decide
  · unfold isUnmappedOffset; decide

/-- No offset falls under two of the classes whose writes differ. -/
theorem test_offset_classes_disjoint (ks off : Nat) (hk : ks ≤ 8) :
    (isGuardedOffset off → ¬ isReadOnlyOffset off ∧ ¬ isUnmappedOffset ks off ∧ ¬ isKeyOffset ks off
      ∧ off ≠ 0x004 ∧ off ≠ 0x008 ∧ off ≠ 0x00C) ∧
    (isReadOnlyOffset off → ¬ isUnmappedOffset ks off ∧ ¬ isKeyOffset ks off ∧ off ≠ 0x004 ∧ off ≠ 0x008 ∧ off ≠ 0x00C) ∧
    (isKeyOffset ks off → ¬ isUnmappedOffset ks off ∧ off ≠ 0x004 ∧ off ≠ 0x008 ∧ off ≠ 0x00C) ∧
    (isUnmappedOffset ks off → off ≠ 0x004 ∧ off ≠ 0x008 ∧ off ≠ 0x00C) := by
  unfold isGuardedOffset isReadOnlyOffset isUnmappedOffset isKeyOffset
  refine ⟨fun h => ⟨by omega, by omega, ?_, by omega⟩, fun h => ⟨by omega, ?_, by omega⟩, ?_, fun h => by omega⟩
  · rintro ⟨k, r, h1, h2, h3, h4⟩; omega
  · rintro ⟨k, r, h1, h2, h3, h4⟩; omega
  · rintro ⟨k, r, h1, h2, h3, h4⟩; omega

/-- A guarded register, and the last KEY register of slot 7 with the table unlocked. -/
theorem witness_WritesWhileBusy :
    (fun s : State => s.cfg.wf = true ∧ s.status.busy = true ∧ s.schedule = .write .w32 (s.cfg.base + 0x2400) 7#32 :: [])
      { (State.resetOf Tests.eightSlots).accept 0#32 with schedule := [Tests.write 0x2400 7#32] } ∧
    (fun s : State => s.cfg.wf = true ∧ s.status.busy = true ∧ isKeyOffset s.cfg.keySlots 0x1F7C ∧ s.ctrl.keyLock = false ∧
      s.schedule = .write .w32 (s.cfg.base + 0x1F7C) 7#32 :: [])
      { (State.resetOf Tests.eightSlots).accept 0#32 with schedule := [Tests.write 0x1F7C 7#32] } :=
  ⟨by decide, by decide, by decide, ⟨7, 0x17C, by decide, by decide, by decide, by decide⟩, by decide, by decide⟩

theorem witness_StatusAndCtrlWrites :
    (fun s : State => s.schedule = .write .w32 (s.cfg.base + 0x008) 2#32 :: []) (Tests.idle [Tests.write 0x008 2#32]) ∧
    (fun s : State => s.schedule = .write .w32 (s.cfg.base + 0x00C) 2#32 :: []) (Tests.idle [Tests.write 0x00C 2#32]) := by
  decide

theorem witness_KeyLockHolds :
    (fun s : State => s.ctrl.keyLock = true ∧ s.schedule.head? ≠ some .reset ∧ (∃ t, step s = .next t) ∧ s.cfg.wf = true ∧
      isKeyOffset s.cfg.keySlots 0x1F7C ∧ s.status.busy = false ∧
      s.schedule = .write .w32 (s.cfg.base + 0x1F7C) 5#32 :: [])
      { Tests.idle [Tests.write 0x1F7C 5#32] with ctrl := { irqEn := false, keyLock := true } } :=
  ⟨by decide, by decide, ⟨_, rfl⟩, by decide, ⟨7, 0x17C, by decide, by decide, by decide, by decide⟩, by decide, by decide⟩

theorem witness_MalformedAccessHasNoEffect :
    (0x4FFE < 0x5000 ∧ 0x4FFE % 4 ≠ 0) ∧ (0x004 < 0x5000 ∧ AccessSize.w8 ≠ .w32) ∧
    (fun s : State => s.schedule = .read .w32 (s.cfg.base + 0x4FFE) :: []) (Tests.idle [.read .w32 0x14FFE]) ∧
    (fun s : State => s.schedule = .write .w8 (s.cfg.base + 0x004) 1#32 :: []) (Tests.idle [.write .w8 0x10004 1#32]) := by
  decide

theorem witness_ReadsHaveNoSideEffect :
    (0x4FFC < 0x5000 ∧ 0x4FFC % 4 = 0) ∧
    (fun s : State => s.schedule = .read .w32 (s.cfg.base + 0x4FFC) :: [] ∧ s.status.busy = false ∧ s.cfg.wf = true ∧
      7 < s.cfg.keySlots) (Tests.idle [.read .w32 0x14FFC]) := by decide

theorem witness_WrittenWordReadsBack :
    (fun s : State => s.configInv ∧ s.status.busy = false ∧ s.ctrl.keyLock = false) (Tests.idle []) := by decide +kernel

theorem witness_BigRegistersAreWordLittleEndian : 7 < (Tests.idle []).cfg.keySlots ∧ 7 < 8 := by decide

/-- A write of CTRL, the one register whose write takes effect while busy, and an idle state that accepts. -/
theorem witness_ReadsWhileBusy :
    (fun s : State => s.handshakeInv ∧ s.status.busy = true ∧ (Tests.write 0x00C 3#32).isAccess = true ∧
      s.schedule = Tests.write 0x00C 3#32 :: [] ∧ ∃ t, step s = .next t)
      { (State.resetOf Tests.eightSlots).accept 0#32 with schedule := [Tests.write 0x00C 3#32] } ∧
    ((Tests.idle []).status.busy = false ∧ 0x00C % 4 = 0 ∧ 0x00C ≠ 0x008) :=
  ⟨⟨by decide, by decide, by decide, by decide, _, rfl⟩, by decide⟩

theorem witness_RunningCommandIsShielded :
    (fun s : State => s.status.busy = true ∧ (Event.write .w32 0x900 7#32).isAccess = true ∧
      s.schedule = .write .w32 0x900 7#32 :: [] ∧ ∃ t, step s = .next t)
      (Tests.busy 0x10#32 [.write .w32 0x900 7#32]) :=
  ⟨by decide, by decide, by decide, _, rfl⟩

theorem witness_ResetGivesResetState : (Tests.busy 0x10#32 [.reset, .engine]).schedule = .reset :: [.engine] := by decide

theorem witness_CommandsWithoutSetUpFail : (7#8).toNat < Tests.eightSlots.keySlots := by decide

theorem witness_InterruptLevel :
    (0x2#32).getLsbD 1 = true ∧ (0x2#32).getLsbD 0 = false ∧ State.reset.status.busy = false ∧
    (Tests.busy 0x00010000#32 []).pending = some 0x00010000#32 := by decide

/-- The last address of the window and the last but one access of a run. -/
theorem witness_EveryRunEnds :
    ∀ e ∈ (Tests.busy 0x10#32 [.read .w32 0x4FFC, .write .w8 0x4FFF 0#32, .reset, .engine]).schedule,
      e.inWindow Config.reference = true := by decide

/-- One state for the five invariants: a digit has been pushed and a command is about to complete. -/
theorem witness_StepKeepsInvariants :
    (fun s : State => s.memoryInv ∧ s.handshakeInv ∧ s.recordInv ∧ s.inputInv ∧ s.configInv ∧ ∃ t, step s = .next t)
      { Tests.busy 0x00004602#32 [.engine] with hexcnt := 1#16, mem := { cells := [(0x2000, 0xA0#8)] } } := by
  refine ⟨by decide +kernel, by decide, by decide +kernel, fun j => ?_, by decide +kernel, _, rfl⟩
  by_cases h : j.val = 0
  · simp [State.ctByte, Memory.read, readCells, h]
  · simp [State.ctByte, Memory.read, readCells]
    omega

/-- Both ends of the legal KEY_SLOTS. -/
theorem witness_ResetHasEveryInv : Config.reference.wf = true ∧ Tests.eightSlots.wf = true := by decide
end

section
/-! The family of 00_scope.md. What a step keeps of the launch (R8), and what running a command again changes (R15). -/

namespace Sys2Proof.Machine

/-! The launch's parameters and the size of the key table. -/

/-- `t` runs under the parameters of `s` and its key table has as many slots. -/
def State.SameLaunch (s t : State) : Prop := t.cfg = s.cfg ∧ t.keys.length = s.keys.length

theorem State.SameLaunch.refl (s : State) : s.SameLaunch s := ⟨rfl, rfl⟩

theorem State.SameLaunch.configInv {s t : State} (h : s.SameLaunch t) (hs : s.configInv) : t.configInv := by
  obtain ⟨hcfg, hkeys⟩ := h
  obtain ⟨hwf, hlen⟩ := hs
  exact ⟨hcfg ▸ hwf, by rw [hkeys, hlen, hcfg]⟩

/-- The writes of a key slot replace it and never lengthen the table (20_memory.md R65). -/
theorem sameLaunch_setKey (s : State) (k : Nat) (slot : KeySlot) : s.SameLaunch (s.setKey k slot) :=
  ⟨rfl, by simp⟩

theorem sameLaunch_guarded {s t : State} (h : s.SameLaunch t) : s.SameLaunch (s.guarded t) := by
  obtain ⟨_, he⟩ | ⟨_, he⟩ := State.guarded_cases s t <;> rw [he]
  · exact ⟨rfl, rfl⟩
  · exact h

theorem sameLaunch_guardedKey {s t : State} (h : s.SameLaunch t) : s.SameLaunch (s.guardedKey t) := by
  obtain ⟨_, _, he⟩ | ⟨_, _, he⟩ | ⟨_, _, he⟩ | ⟨_, _, he⟩ := State.guardedKey_cases s t <;> rw [he]
  · exact ⟨rfl, rfl⟩
  · exact ⟨rfl, rfl⟩
  · exact ⟨rfl, rfl⟩
  · exact h

/-- No write of a register changes the launch: PARAMS is read-only, and a KEY write keeps the number of slots. -/
theorem sameLaunch_writeReg (s : State) (v : Word) (r : WindowReg) : s.SameLaunch (writeReg s v r) := by
  cases r with
  | id | hexcnt | recStatus | fieldValid | params | opRes _ | ct _ | fvLen _ | fvData _ _ | unmapped => exact .refl s
  | status | ctrl => exact ⟨rfl, rfl⟩
  | cmd | ptLen | opBase _ | opExp _ | opMod _ | pt _ | ftW0 _ | ftW1 _ => exact sameLaunch_guarded ⟨rfl, rfl⟩
  | keyVersion k | keyMod k _ | keyExp k _ => exact sameLaunch_guardedKey (sameLaunch_setKey s k _)

theorem sameLaunch_busRead (size : AccessSize) (off : Nat) (s : State) : s.SameLaunch (busRead size off s) := by
  obtain ⟨r, he⟩ := busRead_eq size off s
  exact he ▸ ⟨rfl, rfl⟩

theorem sameLaunch_busWrite (size : AccessSize) (off : Nat) (v : Word) (s : State) :
    s.SameLaunch (busWrite size off v s) := by
  obtain ⟨r, he⟩ | ⟨_, _, r, he⟩ := busWrite_cases size off v s <;> rw [he]
  · exact ⟨rfl, rfl⟩
  · exact sameLaunch_writeReg s v _

/-- No command writes the key table or the launch's parameters (20_memory.md R76). -/
theorem exec_sameLaunch {i : Instr} {s t : State} (h : exec i s = .next t) : s.SameLaunch t := by
  cases i with
  | nop | clearInput =>
    cases h
    exact ⟨rfl, rfl⟩
  | pushHex c =>
    cases h
    simp only [State.pushByte]
    split <;> exact ⟨rfl, rfl⟩
  | modpow => obtain ⟨_, rfl⟩ | ⟨_, rfl⟩ := execModpow_cases h <;> exact ⟨rfl, rfl⟩
  | decrypt k =>
    obtain ⟨_, rfl⟩ | ⟨_, _, _, rfl⟩ | ⟨_, _, _, rfl⟩ := execDecrypt_cases h <;> exact ⟨rfl, rfl⟩
  | decode => obtain ⟨_, rfl⟩ | ⟨_, rfl⟩ := execDecode_cases h <;> exact ⟨rfl, rfl⟩
  | decryptDecode k =>
    obtain ⟨_, rfl⟩ | ⟨_, _, _, rfl⟩ | ⟨_, _, _, rfl⟩ := execDecryptDecode_cases h <;> exact ⟨rfl, rfl⟩

theorem completePending_sameLaunch {s t : State} (h : completePending s = .next t) : s.SameLaunch t := by
  obtain ⟨_, rfl⟩ | ⟨_, _, _, _, hexec⟩ | ⟨_, _, _, _, rfl⟩ := completePending_cases h
  · exact .refl _
  · exact exec_sameLaunch hexec
  · exact ⟨rfl, rfl⟩

/-- A reset builds the key table anew, with KEY_SLOTS slots: as many as before where the invariant holds. -/
theorem sameLaunch_assertReset {s : State} (hs : s.configInv) : s.SameLaunch s.assertReset := by
  obtain ⟨_, hlen⟩ := hs
  exact ⟨rfl, by simp [State.assertReset_eq, State.resetOf, hlen]⟩

theorem takeEvent_sameLaunch {e : Event} {s t : State} (hs : s.configInv) (h : takeEvent e s = .next t) :
    s.SameLaunch t := by
  obtain ⟨_, hc⟩ | ⟨_, rfl⟩ | ⟨size, _, off, _, _, rfl⟩ | ⟨size, _, v, off, _, _, rfl⟩ := takeEvent_cases h
  · exact completePending_sameLaunch hc
  · exact sameLaunch_assertReset hs
  · exact sameLaunch_busRead size off s
  · exact sameLaunch_busWrite size off v s

theorem step_sameLaunch {s t : State} (hs : s.configInv) (h : step s = .next t) : s.SameLaunch t := by
  obtain ⟨_, hc⟩ | ⟨_, rest, _, he⟩ := step_cases h
  · exact completePending_sameLaunch hc
  · exact takeEvent_sameLaunch (s := { s with schedule := rest }) hs he

/-- Settles O59: every kind of step keeps the parameters and the number of key slots. -/
theorem stepKeepsConfigInv : Obligations.StepKeepsConfigInv := fun _ _ hs h =>
  have same := step_sameLaunch hs h
  ⟨same.configInv hs, same.1⟩

/-! The commits of commands made a second time. Each reads nothing it writes, so the later one stands. -/

@[simp] theorem State.complete_complete (s : State) (d e : ErrCode) : (s.complete d).complete e = s.complete e := rfl

@[simp] theorem State.clearRecord_complete (s : State) (e : ErrCode) :
    (s.complete e).clearRecord = s.clearRecord.complete e := rfl

@[simp] theorem State.clearRecord_clearRecord (s : State) : s.clearRecord.clearRecord = s.clearRecord := rfl

@[simp] theorem State.setResult_complete_setResult (s : State) (q r : Big) (e : ErrCode) :
    ((s.setResult q).complete e).setResult r = (s.setResult r).complete e := rfl

@[simp] theorem State.setInput_complete_setInput (s : State) (m n : BitVec 16) (a b : Memory) (e : ErrCode) :
    ((s.setInput m a).complete e).setInput n b = (s.setInput n b).complete e := rfl

@[simp] theorem State.commitRecord_complete_commitRecord (s : State) (q r : Fin 32 → SlotResult) (e : ErrCode) :
    ((s.commitRecord q).complete e).commitRecord r = (s.commitRecord r).complete e := rfl

@[simp] theorem State.decodeCommitted_complete (s : State) (e : ErrCode) :
    (s.complete e).decodeCommitted = s.decodeCommitted.complete e := rfl

theorem State.setPlaintext_setPlaintext (s : State) (p : List Byte) (n : BitVec 16) :
    (s.setPlaintext p n).setPlaintext p n = s.setPlaintext p n := by
  simp [State.setPlaintext, Memory.store_store]

theorem State.commitPlaintext_complete_commitPlaintext (s : State) (p : List Byte) (e : ErrCode) :
    ((s.commitPlaintext p).complete e).commitPlaintext p = (s.commitPlaintext p).complete e :=
  congrArg (State.complete e) (State.setPlaintext_setPlaintext s.clearRecord _ _)

/-- A new plaintext clears the record decoded of the old one (41_block_cryptor.md R147). -/
theorem State.commitPlaintext_complete_decodeCommitted (s : State) (p : List Byte) (e : ErrCode) :
    ((s.commitPlaintext p).decodeCommitted.complete e).commitPlaintext p = (s.commitPlaintext p).complete e :=
  s.commitPlaintext_complete_commitPlaintext p e

theorem State.failDecrypt_complete_failDecrypt (s : State) (e : ErrCode) :
    (s.failDecrypt.complete e).failDecrypt = s.failDecrypt.complete e :=
  congrArg (State.complete e) (State.setPlaintext_setPlaintext s.clearRecord _ _)

/-! What a completed command leaves as the next decryption reads it: HEXCNT, CT and the key table
(41_block_cryptor.md R147). -/

@[simp] theorem State.commitPlaintext_cfg (s : State) (p : List Byte) : (s.commitPlaintext p).cfg = s.cfg := rfl
@[simp] theorem State.decodeCommitted_cfg (s : State) : s.decodeCommitted.cfg = s.cfg := rfl
@[simp] theorem State.failDecrypt_cfg (s : State) : s.failDecrypt.cfg = s.cfg := rfl

@[simp] theorem State.decryptWith_complete (s : State) (e : ErrCode) (k : Byte) :
    (s.complete e).decryptWith k = s.decryptWith k := rfl

@[simp] theorem State.decryptWith_decodeCommitted (s : State) (k : Byte) :
    s.decodeCommitted.decryptWith k = s.decryptWith k := rfl

@[simp] theorem State.decryptWith_commitPlaintext (s : State) (p : List Byte) (k : Byte) :
    (s.commitPlaintext p).decryptWith k = s.decryptWith k :=
  State.decryptWith_congr k rfl (State.ct_setPlaintext s.clearRecord _ _) rfl

@[simp] theorem State.decryptWith_failDecrypt (s : State) (k : Byte) :
    s.failDecrypt.decryptWith k = s.decryptWith k :=
  State.decryptWith_congr k rfl (State.ct_setPlaintext s.clearRecord _ _) rfl

/-! Each command run again on the state its first run left. -/

/-- CLEAR_INPUT stores the same zero bytes over CT (40_input_normalizer.md R123). -/
theorem execClearInput_again {s t : State} (h : execClearInput s = .next t) : execClearInput t = .next t := by
  cases h
  simp [execClearInput, Memory.store_store]

/-- MODPOW reads OP_BASE, OP_EXP and OP_MOD and writes OP_RES (41_block_cryptor.md R145). -/
theorem execModpow_again {s t : State} (h : execModpow s = .next t) : execModpow t = .next t := by
  obtain ⟨hm, rfl⟩ | ⟨hm, rfl⟩ := execModpow_cases h
  · simp [execModpow, hm]
  · simp [execModpow, hm]

/-- DECRYPT finds the same input and key, hence gives the same plaintext or the same error (41_block_cryptor.md R147). -/
theorem execDecrypt_again {k : Byte} {s t : State} (h : execDecrypt k s = .next t) : execDecrypt k t = .next t := by
  obtain ⟨hk, rfl⟩ | ⟨hk, p, hp, rfl⟩ | ⟨hk, e, he, rfl⟩ := execDecrypt_cases h
  · simp [execDecrypt, Nat.not_lt.2 hk]
  · simp [execDecrypt, hk, hp, State.commitPlaintext_complete_commitPlaintext]
  · simp [execDecrypt, hk, he, State.failDecrypt_complete_failDecrypt]

/-- DECODE reads PT, PT_LEN and the field table and writes none of them (42_record_decoder.md R186). -/
theorem execDecode_again {s t : State} (h : execDecode s = .next t) : execDecode t = .next t := by
  obtain ⟨hl, rfl⟩ | ⟨hl, rfl⟩ := execDecode_cases h
  · simp [execDecode, decodeFn, hl, State.pt]
  · simp [execDecode, decodeFn, hl]

/-- DECRYPT_DECODE finds the same input and key, and decodes the same plaintext (43_sequencing.md R210). -/
theorem execDecryptDecode_again {k : Byte} {s t : State} (h : execDecryptDecode k s = .next t) :
    execDecryptDecode k t = .next t := by
  obtain ⟨hk, rfl⟩ | ⟨hk, p, hp, rfl⟩ | ⟨hk, e, he, rfl⟩ := execDecryptDecode_cases h
  · simp [execDecryptDecode, Nat.not_lt.2 hk]
  · simp [execDecryptDecode, hk, hp, State.commitPlaintext_complete_decodeCommitted]
  · simp [execDecryptDecode, hk, he, State.failDecrypt_complete_failDecrypt]

/-- Only PUSH_HEX, which reads the count it writes, can change what its first run left. -/
theorem exec_again {i : Instr} {s t : State} (hi : ∀ c, i ≠ .pushHex c) (h : exec i s = .next t) :
    exec i t = .next t := by
  cases i with
  | nop =>
    cases h
    rfl
  | clearInput => exact execClearInput_again h
  | pushHex c => exact absurd rfl (hi c)
  | modpow => exact execModpow_again h
  | decrypt k => exact execDecrypt_again h
  | decode => exact execDecode_again h
  | decryptDecode k => exact execDecryptDecode_again h

/-- Settles O10: every command completes, and every one but PUSH_HEX repeats its own commit. -/
theorem repeatedCommandChangesNothing : Obligations.RepeatedCommandChangesNothing := fun i s hi =>
  have ⟨t, ht⟩ := exec_next i s
  ⟨t, ht, exec_again hi ht⟩

end Sys2Proof.Machine
end

section
/-! The family of 10_state.md. What every step keeps of the buffers, the BUSY handshake, the record outputs and the locked key
table, and what a host write of each kind of register does to the window. -/

namespace Sys2Proof.Machine

/-! The map of 10_state.md section 1, read backwards: where each register stands. -/

/-- A register of a launch with `ks` key slots stands at a window offset. It is unfolded by its equations alone, as unifying two
offsets would compute them. -/
@[irreducible] def WindowReg.StandsAt (ks : Nat) : WindowReg → Nat → Prop
  | .id, off => off = 0x000
  | .cmd, off => off = 0x004
  | .status, off => off = 0x008
  | .ctrl, off => off = 0x00C
  | .hexcnt, off => off = 0x010
  | .ptLen, off => off = 0x014
  | .recStatus, off => off = 0x018
  | .fieldValid, off => off = 0x01C
  | .params, off => off = 0x020
  | .opBase j, off => off = 0x800 + 4 * j.val
  | .opExp j, off => off = 0x880 + 4 * j.val
  | .opMod j, off => off = 0x900 + 4 * j.val
  | .opRes j, off => off = 0x980 + 4 * j.val
  | .keyVersion k, off => k < ks ∧ k < 8 ∧ off = 0x1000 + 0x200 * k
  | .keyMod k j, off => k < ks ∧ k < 8 ∧ off = 0x1080 + 0x200 * k + 4 * j.val
  | .keyExp k j, off => k < ks ∧ k < 8 ∧ off = 0x1100 + 0x200 * k + 4 * j.val
  | .ct w, off => w < 180 ∧ off = 0x2000 + 4 * w
  | .pt w, off => w < 160 ∧ off = 0x2400 + 4 * w
  | .ftW0 i, off => off = 0x3000 + 8 * i.val
  | .ftW1 i, off => off = 0x3004 + 8 * i.val
  | .fvLen i, off => off = 0x4000 + 0x80 * i.val
  | .fvData i w, off => off = 0x4040 + 0x80 * i.val + 4 * w.val
  | .unmapped, off => isUnmappedOffset ks off ∨ 0x5000 ≤ off

theorem WindowReg.standsAt_ite {ks off : Nat} {p : Prop} [Decidable p] {x y : WindowReg}
    (hx : p → x.StandsAt ks off) (hy : ¬ p → y.StandsAt ks off) : (if p then x else y).StandsAt ks off := by
  split
  · next hp => exact hx hp
  · next hp => exact hy hp

/-- The gaps between the ranges of the map (20_memory.md R65), and what lies past the window. -/
theorem unmapped_standsAt {ks off : Nat} (h4 : off % 4 = 0)
    (h : (0x024 ≤ off ∧ off ≤ 0x7FC) ∨ (0xA00 ≤ off ∧ off ≤ 0xFFC) ∨ (0x22D0 ≤ off ∧ off ≤ 0x23FC) ∨
      (0x2680 ≤ off ∧ off ≤ 0x2FFC) ∨ (0x3100 ≤ off ∧ off ≤ 0x3FFC) ∨ 0x5000 ≤ off) :
    WindowReg.unmapped.StandsAt ks off := by
  simp only [WindowReg.StandsAt, isUnmappedOffset, h4, true_and]
  obtain h | h | h | h | h | h := h <;> simp only [h, and_self, true_or, or_true]

theorem keyRegAt_standsAt {ks off : Nat} (h4 : off % 4 = 0) (h : 0x1000 ≤ off ∧ off < 0x2000) :
    (keyRegAt ks off).StandsAt ks off := by
  simp only [keyRegAt]
  repeat' with_reducible refine WindowReg.standsAt_ite (fun _ => ?_) fun _ => ?_
  all_goals
    simp only [WindowReg.StandsAt, isUnmappedOffset, Fin.val_ofNat]
    omega

theorem fvRegAt_standsAt (ks : Nat) {off : Nat} (h4 : off % 4 = 0) (h : 0x4000 ≤ off ∧ off < 0x5000) :
    (fvRegAt off).StandsAt ks off := by
  simp only [fvRegAt]
  repeat' with_reducible refine WindowReg.standsAt_ite (fun _ => ?_) fun _ => ?_
  all_goals
    simp only [WindowReg.StandsAt, isUnmappedOffset, Fin.val_ofNat]
    omega

/-- What the map gives an aligned offset stands there. -/
theorem regAt_standsAt (ks : Nat) {off : Nat} (h4 : off % 4 = 0) : (regAt ks off).StandsAt ks off := by
  unfold regAt
  repeat' with_reducible refine WindowReg.standsAt_ite (fun _ => ?_) fun _ => ?_
  any_goals with_reducible exact keyRegAt_standsAt h4 ‹_›
  any_goals with_reducible exact fvRegAt_standsAt ks h4 ‹_›
  any_goals with_reducible exact unmapped_standsAt h4 (by omega)
  all_goals
    simp only [WindowReg.StandsAt, Fin.val_ofNat]
    omega

/-- A register that a host write of its offset sets: the operands, PT_LEN, PT, the field table, the keys. -/
def WindowReg.isData : WindowReg → Bool
  | .ptLen | .opBase _ | .opExp _ | .opMod _ | .keyVersion _ | .keyMod _ _ | .keyExp _ _ | .pt _ | .ftW0 _ | .ftW1 _ => true
  | .id | .cmd | .status | .ctrl | .hexcnt | .recStatus | .fieldValid | .params | .opRes _ | .ct _ | .fvLen _ | .fvData _ _
  | .unmapped => false

theorem isData_of_isGuardedOffset {ks off : Nat} {r : WindowReg} (hr : r.StandsAt ks off) (h : isGuardedOffset off) :
    r.isData = true := by
  obtain ⟨h4, h⟩ := h
  cases r with
  | ptLen | opBase _ | opExp _ | opMod _ | keyVersion _ | keyMod _ _ | keyExp _ _ | pt _ | ftW0 _ | ftW1 _ => rfl
  | _ =>
    simp only [WindowReg.StandsAt, isUnmappedOffset] at hr
    omega

/-- A register at a KEY offset of a slot the launch has is one of that slot (10_state.md R33). -/
theorem key_of_isKeyOffset {ks off : Nat} {r : WindowReg} (hks : ks ≤ 8) (hr : r.StandsAt ks off)
    (h : isKeyOffset ks off) : ∃ k, r = .keyVersion k ∨ ∃ j, r = .keyMod k j ∨ r = .keyExp k j := by
  obtain ⟨k, o, hk, rfl, h4, ho⟩ := h
  cases r with
  | keyVersion k => exact ⟨k, .inl rfl⟩
  | keyMod k j => exact ⟨k, .inr ⟨j, .inl rfl⟩⟩
  | keyExp k j => exact ⟨k, .inr ⟨j, .inr rfl⟩⟩
  | _ =>
    simp only [WindowReg.StandsAt, isUnmappedOffset] at hr
    omega

theorem isData_of_isKeyOffset {ks off : Nat} {r : WindowReg} (hks : ks ≤ 8) (hr : r.StandsAt ks off)
    (h : isKeyOffset ks off) : r.isData = true := by
  obtain ⟨_, rfl | ⟨_, rfl | rfl⟩⟩ := key_of_isKeyOffset hks hr h <;> rfl

theorem isKeyOffset_aligned {ks off : Nat} (hks : ks ≤ 8) (h : isKeyOffset ks off) : off % 4 = 0 ∧ off < 0x5000 := by
  obtain ⟨k, o, hk, rfl, h4, ho⟩ := h
  omega

/-! One induction for every invariant. -/

/-- Each operation a step is made of keeps `P`. An operation that writes no field `P` reads keeps it as it stands, and its proof
is filled in so; an invariant names the operations that touch it. A reset is no part of it (`step_keeps`). -/
structure OpsKeep (P : State → Prop) : Prop where
  schedule : ∀ s rest, P s → P { s with schedule := rest } := by exact fun _ _ h => h
  respond : ∀ s r, P s → P (s.respond r) := by exact fun _ _ h => h
  accept : ∀ s w, P s → P (s.accept w) := by exact fun _ _ h => h
  markOverrun : ∀ s, P s → P s.markOverrun := by exact fun _ h => h
  markLockViolation : ∀ s, P s → P s.markLockViolation := by exact fun _ h => h
  writeStatus : ∀ s v, P s → P { s with status := statusAfterWrite s.status v } := by exact fun _ _ h => h
  writeCtrl : ∀ s v, P s → P { s with ctrl := ctrlAfterWrite s.ctrl v } := by exact fun _ _ h => h
  setPtLen : ∀ s n, P s → P { s with ptLen := n } := by exact fun _ _ h => h
  setOpBase : ∀ s x, P s → P { s with opBase := x } := by exact fun _ _ h => h
  setOpExp : ∀ s x, P s → P { s with opExp := x } := by exact fun _ _ h => h
  setOpMod : ∀ s x, P s → P { s with opMod := x } := by exact fun _ _ h => h
  setKey : ∀ s k slot, s.ctrl.keyLock = false → P s → P (s.setKey k slot) := by exact fun _ _ _ _ h => h
  setFieldEntry : ∀ s i f, P s → P (s.setFieldEntry i f) := by exact fun _ _ _ h => h
  storePt : ∀ s a bs, ptBase ≤ a → a + bs.length ≤ ptBase + ptSize → P s → P { s with mem := s.mem.store a bs } := by
    exact fun _ _ _ _ _ h => h
  clearInput : ∀ s, P s → P (s.setInput 0#16 (s.mem.store ctBase (zeroBytes inputLen))) := by exact fun _ h => h
  pushDigit : ∀ s c, isHex c = true → P s →
      P (s.setInput (countAfterDigit s.hexcnt) (ctAfterDigit s (hexval c))) := by exact fun _ _ _ h => h
  setResult : ∀ s r, P s → P (s.setResult r) := by exact fun _ _ h => h
  clearRecord : ∀ s, P s → P s.clearRecord := by exact fun _ h => h
  decodeCommitted : ∀ s, P s → P s.decodeCommitted := by exact fun _ h => h
  complete : ∀ s e, P s → P (s.complete e) := by exact fun _ _ h => h

section
variable {P : State → Prop}

theorem OpsKeep.setPlaintext (hP : OpsKeep P) {s : State} (h : P s) {p : List Byte} (hp : p.length = 640) (n : BitVec 16) :
    P (s.setPlaintext p n) :=
  hP.setPtLen _ n (hP.storePt s ptBase p (Nat.le_refl _) (by simp [hp]) h)

theorem OpsKeep.commitPlaintext (hP : OpsKeep P) {s : State} (h : P s) {p : List Byte} (hp : p.length = 640) :
    P (s.commitPlaintext p) :=
  hP.setPlaintext (hP.clearRecord s h) hp _

theorem OpsKeep.failDecrypt (hP : OpsKeep P) {s : State} (h : P s) : P s.failDecrypt :=
  hP.setPlaintext (hP.clearRecord s h) (length_zeroBytes _) _

theorem OpsKeep.pushByte (hP : OpsKeep P) {s : State} (h : P s) (c : Byte) : P (s.pushByte c) := by
  unfold State.pushByte
  split
  · next hc => exact hP.pushDigit s c hc h
  · exact h

/-- Each command commits by the operations of its row of 20_memory.md R76 and completes. -/
theorem OpsKeep.exec (hP : OpsKeep P) {i : Instr} {s t : State} (h : P s) (he : exec i s = .next t) : P t := by
  cases i with
  | nop =>
    cases he
    exact hP.complete s _ h
  | clearInput =>
    cases he
    exact hP.complete _ _ (hP.clearInput s h)
  | pushHex c =>
    cases he
    exact hP.complete _ _ (hP.pushByte h c)
  | modpow => obtain ⟨_, rfl⟩ | ⟨_, rfl⟩ := execModpow_cases he <;> exact hP.complete _ _ (hP.setResult s _ h)
  | decrypt k =>
    obtain ⟨_, rfl⟩ | ⟨_, p, hp, rfl⟩ | ⟨_, _, _, rfl⟩ := execDecrypt_cases he
    · exact hP.complete s _ h
    · obtain ⟨_, _, hlen, _⟩ := State.decryptWith_ok hp
      exact hP.complete _ _ (hP.commitPlaintext h hlen)
    · exact hP.complete _ _ (hP.failDecrypt h)
  | decode =>
    obtain ⟨_, rfl⟩ | ⟨_, rfl⟩ := execDecode_cases he
    · exact hP.complete _ _ (hP.decodeCommitted s h)
    · exact hP.complete _ _ (hP.clearRecord s h)
  | decryptDecode k =>
    obtain ⟨_, rfl⟩ | ⟨_, p, hp, rfl⟩ | ⟨_, _, _, rfl⟩ := execDecryptDecode_cases he
    · exact hP.complete s _ h
    · obtain ⟨_, _, hlen, _⟩ := State.decryptWith_ok hp
      exact hP.complete _ _ (hP.decodeCommitted _ (hP.commitPlaintext h hlen))
    · exact hP.complete _ _ (hP.failDecrypt h)

theorem OpsKeep.completePending (hP : OpsKeep P) {s t : State} (h : P s) (hc : completePending s = .next t) : P t := by
  obtain ⟨_, rfl⟩ | ⟨_, _, _, _, he⟩ | ⟨_, _, _, _, rfl⟩ := completePending_cases hc
  · exact h
  · exact hP.exec h he
  · exact hP.complete s _ h

theorem OpsKeep.guarded (hP : OpsKeep P) {s t : State} (h : P s) (ht : P t) : P (s.guarded t) := by
  obtain ⟨_, he⟩ | ⟨_, he⟩ := State.guarded_cases s t <;> rw [he]
  · exact hP.markOverrun s h
  · exact ht

theorem OpsKeep.guardedKey (hP : OpsKeep P) {s t : State} (h : P s) (ht : s.ctrl.keyLock = false → P t) :
    P (s.guardedKey t) := by
  obtain ⟨_, _, he⟩ | ⟨_, _, he⟩ | ⟨_, _, he⟩ | ⟨hk, _, he⟩ := State.guardedKey_cases s t <;> rw [he]
  · exact hP.markLockViolation _ (hP.markOverrun s h)
  · exact hP.markLockViolation s h
  · exact hP.markOverrun s h
  · exact ht hk

/-- A write of a register that stands somewhere in the window. -/
theorem OpsKeep.writeReg (hP : OpsKeep P) {s : State} (h : P s) (v : Word) {r : WindowReg} {ks off : Nat}
    (hr : r.StandsAt ks off) : P (writeReg s v r) := by
  cases r with
  | id | hexcnt | recStatus | fieldValid | params | opRes _ | ct _ | fvLen _ | fvData _ _ | unmapped => exact h
  | cmd => exact hP.guarded h (hP.accept s v h)
  | status => exact hP.writeStatus s v h
  | ctrl => exact hP.writeCtrl s v h
  | ptLen => exact hP.guarded h (hP.setPtLen s _ h)
  | opBase _ => exact hP.guarded h (hP.setOpBase s _ h)
  | opExp _ => exact hP.guarded h (hP.setOpExp s _ h)
  | opMod _ => exact hP.guarded h (hP.setOpMod s _ h)
  | keyVersion k | keyMod k _ | keyExp k _ => exact hP.guardedKey h fun hk => hP.setKey s k _ hk h
  | pt w =>
    simp only [WindowReg.StandsAt] at hr
    exact hP.guarded h (hP.storePt s _ _ (by simp) (by simp [lanesOf]; omega) h)
  | ftW0 i | ftW1 i => exact hP.guarded h (hP.setFieldEntry s i _ h)

theorem OpsKeep.busRead (hP : OpsKeep P) {s : State} (h : P s) (size : AccessSize) (off : Nat) :
    P (busRead size off s) := by
  obtain ⟨r, he⟩ := busRead_eq size off s
  exact he ▸ hP.respond s r h

theorem OpsKeep.busWrite (hP : OpsKeep P) {s : State} (h : P s) (size : AccessSize) (off : Nat) (v : Word) :
    P (busWrite size off v s) := by
  obtain ⟨r, he⟩ | ⟨_, h4, r, he⟩ := busWrite_cases size off v s <;> rw [he]
  · exact hP.respond s r h
  · exact hP.respond _ r (hP.writeReg h v (regAt_standsAt _ h4))

/-- A step keeps what every operation keeps, if a reset taken in this step establishes it. -/
theorem step_keeps (hP : OpsKeep P) {s t : State}
    (hreset : ∀ rest, s.schedule = .reset :: rest → P { s with schedule := rest }.assertReset)
    (h : P s) (hstep : step s = .next t) : P t := by
  obtain ⟨_, hc⟩ | ⟨e, rest, hs, he⟩ := step_cases hstep
  · exact hP.completePending h hc
  · have h' := hP.schedule s rest h
    obtain ⟨_, hc⟩ | ⟨rfl, rfl⟩ | ⟨size, _, off, _, _, rfl⟩ | ⟨size, _, v, off, _, _, rfl⟩ := takeEvent_cases he
    · exact hP.completePending h' hc
    · exact hreset rest hs
    · exact hP.busRead h' size off
    · exact hP.busWrite h' size off v

end

/-! The byte buffers. -/

/-- A store inside CT and PT keeps the buffers canonical and in place. -/
theorem memoryInv_of_store {s t : State} (hs : s.memoryInv) {a : Nat} {bs : List Byte}
    (hin : ∀ x, a ≤ x → x < a + bs.length → inCt x ∨ inPt x) (ht : t.mem = s.mem.store a bs) : t.memoryInv := by
  obtain ⟨hwf, hplace⟩ := hs
  rw [State.memoryInv, ht]
  refine ⟨Memory.wf_store hwf a bs, fun c hc => ?_⟩
  obtain ⟨hold, _⟩ | ⟨hge, hlt, _⟩ := Memory.mem_store hc
  · exact hplace c hold
  · exact hin c.1 hge hlt

/-- A digit is stored at CT[HEXCNT div 2] while HEXCNT is below 1440, so inside CT (40_input_normalizer.md R124). -/
theorem memoryInv_pushDigit {s : State} (hs : s.memoryInv) (n : BitVec 16) (v : Nat) :
    (s.setInput n (ctAfterDigit s v)).memoryInv := by
  by_cases hlt : s.hexcnt.toNat < hexLen
  · refine memoryInv_of_store hs (a := ctBase + s.hexcnt.toNat / 2) (fun x hge hx => .inl ?_)
      (if_pos hlt)
    simp only [hexLen, ctBase, List.length_singleton] at hlt hge hx
    simp only [inCt, ctBase, inputLen]
    omega
  · have hmem : ctAfterDigit s v = s.mem := if_neg hlt
    exact hmem ▸ hs

theorem opsKeep_memoryInv : OpsKeep State.memoryInv where
  storePt _ a bs hge hle hs := memoryInv_of_store hs (fun x hx hlt => .inr ⟨by omega, by omega⟩) rfl
  clearInput _ hs := memoryInv_of_store hs (fun x hx hlt => .inl ⟨hx, by simpa using hlt⟩) rfl
  pushDigit _ c _ hs := memoryInv_pushDigit hs _ _

theorem memoryInv_assertReset (s : State) : s.assertReset.memoryInv :=
  ⟨Memory.wf_reset s.cfg, fun _ hc => by cases hc⟩

/-- Settles O55: every write to the buffers is a store inside CT or PT, and a store keeps the canonical form. -/
theorem stepKeepsMemoryInv : Obligations.StepKeepsMemoryInv := fun _ _ hs hstep =>
  step_keeps opsKeep_memoryInv (fun _ _ => memoryInv_assertReset _) hs hstep

/-! The BUSY handshake. -/

/-- Acceptance raises BUSY with PENDING and clears DONE and ERR; completion and reset end both. -/
theorem opsKeep_handshakeInv : OpsKeep State.handshakeInv where
  accept _ _ _ := ⟨rfl, fun _ => ⟨rfl, rfl⟩⟩
  complete _ _ _ := ⟨rfl, fun hb => by cases hb⟩
  writeStatus s v hs := by
    obtain ⟨hpending, hidle⟩ := hs
    refine ⟨hpending, fun hb => ?_⟩
    obtain ⟨hdone, herr⟩ := hidle hb
    exact ⟨by simp [statusAfterWrite, hdone], herr⟩

theorem handshakeInv_assertReset (s : State) : s.assertReset.handshakeInv :=
  ⟨rfl, fun hb => by cases hb⟩

/-- Settles O56: acceptance and completion write BUSY, PENDING, DONE and ERR together. -/
theorem stepKeepsHandshakeInv : Obligations.StepKeepsHandshakeInv := fun _ _ hs hstep =>
  step_keeps opsKeep_handshakeInv (fun _ _ => handshakeInv_assertReset _) hs hstep

/-! The record outputs. -/

/-- The sentinel's DATA is all zero (42_record_decoder.md R183). -/
theorem FieldValue.data_sentinel (j : Fin 64) : FieldValue.sentinel.data[j.val] = 0#8 := by
  simp [FieldValue.sentinel]

/-- A record whose slots all hold the sentinel fits together, when nothing in it is valid. -/
theorem recordInv_of_cleared {s : State} (hc : s.recComplete = false) (hvalid : s.fieldValid = Vector.replicate 32 false)
    (hfv : s.fv = Vector.replicate 32 FieldValue.sentinel) : s.recordInv := by
  have sentinel (i : Fin 32) : s.fv[i.val] = FieldValue.sentinel := by simp [hfv]
  refine ⟨fun h => ?_, fun _ i => by simp [hvalid], fun i _ => sentinel i, fun i j _ => ?_⟩
  · rw [hc] at h
    cases h
  · rw [sentinel i]
    exact FieldValue.data_sentinel j

theorem recordInv_clearRecord (s : State) : s.clearRecord.recordInv := recordInv_of_cleared rfl rfl rfl

theorem recordInv_assertReset (s : State) : s.assertReset.recordInv := recordInv_of_cleared rfl rfl rfl

/-- A slot that gave no value holds the sentinel (42_record_decoder.md R183). -/
theorem SlotResult.fieldValue_of_isValue_false {r : SlotResult} (h : r.isValue = false) :
    r.fieldValue = FieldValue.sentinel := by
  cases r with
  | value v => cases h
  | fieldError | disabled => rfl

/-- A slot's value is at most 64 bytes, so DATA holds it whole, then zeros from LEN up (10_state.md R44). -/
theorem data_fieldValue_slotResult (f : FieldEntry) (p : List Byte) (j : Fin 64)
    (hj : (slotResult f p).fieldValue.len.val ≤ j.val) : (slotResult f p).fieldValue.data[j.val] = 0#8 := by
  cases hr : slotResult f p with
  | value v =>
    obtain ⟨_, _, _, _, hle⟩ := slotResult_value hr
    obtain ⟨hlen, hdata⟩ := valueField_spec hle
    rw [hr] at hj
    have hvj : v.length ≤ j.val := hlen ▸ hj
    exact (hdata j).trans (by simp [hvj])
  | fieldError | disabled => exact FieldValue.data_sentinel j

theorem recordInv_decodeCommitted (s : State) : s.decodeCommitted.recordInv := by
  refine ⟨fun _ => rfl, fun h => ?_, fun i hi => ?_, fun i j hj => ?_⟩
  · exact absurd (show true = false from h) (by decide)
  · simp only [State.decodeCommitted, State.commitRecord_fieldValid, State.commitRecord_fv, Vector.getElem_ofFn] at hi ⊢
    exact SlotResult.fieldValue_of_isValue_false hi
  · simp only [State.decodeCommitted, State.commitRecord_fv, Vector.getElem_ofFn] at hj ⊢
    exact data_fieldValue_slotResult _ _ j hj

theorem opsKeep_recordInv : OpsKeep State.recordInv where
  clearRecord s _ := recordInv_clearRecord s
  decodeCommitted s _ := recordInv_decodeCommitted s

/-- Settles O57: the record outputs are written by a clear, a decode and a reset alone, and each writes them all. -/
theorem stepKeepsRecordInv : Obligations.StepKeepsRecordInv := fun _ _ hs hstep =>
  step_keeps opsKeep_recordInv (fun _ _ => recordInv_assertReset _) hs hstep

/-! Host writes of an aligned word. -/

/-- The port takes an aligned 32-bit write as the write of the register there (20_memory.md R64, R66). -/
theorem busWrite_aligned {off : Nat} (h4 : off % 4 = 0) (v : Word) (s : State) :
    busWrite .w32 off v s =
      (writeReg s v (regAt s.cfg.keySlots off)).respond { busError := false, data := none } := by
  simp [busWrite, performed, h4]

/-- A step that takes an aligned 32-bit host write. -/
theorem step_write {s : State} {off : Nat} {v : Word} {rest : List Event}
    (hs : s.schedule = .write .w32 (s.cfg.base + off) v :: rest) (h4 : off % 4 = 0) (hoff : off < 0x5000) {t : State}
    (ht : writeReg { s with schedule := rest } v (regAt s.cfg.keySlots off) = t) :
    step s = .next (t.respond { busError := false, data := none }) := by
  simp only [step, stepSchedule, hs, takeEvent, windowOffset_base s.cfg hoff, busWrite_aligned h4, ht]

theorem State.guarded_busy {s : State} (h : s.status.busy = true) (t : State) : s.guarded t = s.markOverrun := by
  simp [State.guarded, h]

theorem State.guarded_idle {s : State} (h : s.status.busy = false) (t : State) : s.guarded t = t := by
  simp [State.guarded, h]

theorem State.guardedKey_locked_busy {s : State} (hk : s.ctrl.keyLock = true) (hb : s.status.busy = true) (t : State) :
    s.guardedKey t = s.markOverrun.markLockViolation := by
  simp [State.guardedKey, hk, hb]

theorem State.guardedKey_locked_idle {s : State} (hk : s.ctrl.keyLock = true) (hb : s.status.busy = false) (t : State) :
    s.guardedKey t = s.markLockViolation := by
  simp [State.guardedKey, hk, hb]

theorem State.guardedKey_unlocked_idle {s : State} (hk : s.ctrl.keyLock = false) (hb : s.status.busy = false) (t : State) :
    s.guardedKey t = t := by
  simp [State.guardedKey, State.guarded, hk, hb]

theorem writeReg_cmd_idle {s : State} (h : s.status.busy = false) (w : Word) : writeReg s w .cmd = s.accept w :=
  State.guarded_idle h _

theorem writeReg_cmd_busy {s : State} (h : s.status.busy = true) (w : Word) : writeReg s w .cmd = s.markOverrun :=
  State.guarded_busy h _

/-- Settles O39: CMD accepts the word while idle and marks OVERRUN while busy. -/
theorem commandAcceptance : Obligations.CommandAcceptance := by
  intro s w rest hs
  refine ⟨fun hidle => ?_, fun hbusy => ?_, rfl⟩
  · exact step_write hs (by decide) (by decide) (writeReg_cmd_idle (s := { s with schedule := rest }) hidle w)
  · exact step_write hs (by decide) (by decide) (writeReg_cmd_busy (s := { s with schedule := rest }) hbusy w)

/-- Settles O41: STATUS and CTRL take a write whatever the state. -/
theorem statusAndCtrlWrites : Obligations.StatusAndCtrlWrites := by
  intro s off v rest hs
  refine ⟨fun hoff => ?_, fun hoff => ?_⟩ <;> subst hoff
  · exact step_write hs (by decide) (by decide) rfl
  · exact step_write hs (by decide) (by decide) rfl

/-! The key lock. -/

/-- The key table is `keys` and is locked. -/
def State.LockedWith (keys : List KeySlot) (s : State) : Prop := s.keys = keys ∧ s.ctrl.keyLock = true

/-- The lock holds off the only write of the key table, and a CTRL write never clears it (10_state.md R30). -/
theorem opsKeep_lockedWith (keys : List KeySlot) : OpsKeep (State.LockedWith keys) where
  writeCtrl s v := fun ⟨hkeys, hlock⟩ => ⟨hkeys, by simp [ctrlAfterWrite, hlock]⟩
  setKey s k slot hopen := fun ⟨_, hlock⟩ => by simp [hopen] at hlock

/-- A write of any KEY register is guarded by the lock and by BUSY. -/
theorem writeReg_isKeyOffset {ks off : Nat} (hks : ks ≤ 8) (h : isKeyOffset ks off) (s : State) (v : Word) :
    ∃ t, writeReg s v (regAt ks off) = s.guardedKey t := by
  have hr := regAt_standsAt ks (isKeyOffset_aligned hks h).1
  obtain ⟨k, hk | ⟨j, hk | hk⟩⟩ := key_of_isKeyOffset hks hr h <;> exact hk ▸ ⟨_, rfl⟩

theorem Config.keySlots_le {c : Config} (h : c.wf = true) : c.keySlots ≤ 8 := by
  simp only [Config.wf, Bool.and_eq_true, decide_eq_true_eq] at h
  exact h.2

/-- Settles O42: the lock is an invariant of every step but a reset, and every KEY register is behind it. -/
theorem keyLockHolds : Obligations.KeyLockHolds := by
  refine ⟨fun s s' hlock hreset hstep => ?_, fun s off v rest hwf hlock hkey hs => ?_⟩
  · exact step_keeps (opsKeep_lockedWith s.keys) (fun rest hs => absurd hs (hreset rest)) ⟨rfl, hlock⟩ hstep
  · have hks := Config.keySlots_le hwf
    obtain ⟨h4, hoff⟩ := isKeyOffset_aligned hks hkey
    obtain ⟨t, ht⟩ := writeReg_isKeyOffset hks hkey { s with schedule := rest } v
    have idle (hidle : s.status.busy = false) :=
      step_write hs h4 hoff (ht.trans (State.guardedKey_locked_idle (s := { s with schedule := rest }) hlock hidle t))
    have busy (hbusy : s.status.busy = true) :=
      step_write hs h4 hoff (ht.trans (State.guardedKey_locked_busy (s := { s with schedule := rest }) hlock hbusy t))
    refine ⟨idle, ?_⟩
    cases hb : s.status.busy with
    | false => exact ⟨s.status.overrun, idle hb⟩
    | true => exact ⟨true, busy hb⟩

/-! What a written register holds. -/

/-- The lanes of a word put together again (20_memory.md R61). -/
theorem wordOfLanes_laneOf (w : Word) : wordOfLanes (laneOf w 0) (laneOf w 1) (laneOf w 2) (laneOf w 3) = w := by
  refine BitVec.eq_of_getLsbD_eq fun i hi => ?_
  simp only [wordOfLanes, laneOf, BitVec.getLsbD_append, BitVec.getLsbD_extractLsb']
  grind

theorem FieldEntry.w0_setW0 (f : FieldEntry) (w : Word) : (f.setW0 w).w0 = w := by
  refine BitVec.eq_of_getLsbD_eq fun i hi => ?_
  simp only [FieldEntry.w0, FieldEntry.setW0, BitVec.getLsbD_append, BitVec.getLsbD_extractLsb']
  grind

/-- A bit of the low half of a word: the mask of the reserved bits (10_state.md R38, R42, R47). -/
theorem getLsbD_and_low_half (w : Word) (i : Nat) :
    (w &&& 0x0000FFFF#32).getLsbD i = (decide (i < 16) && w.getLsbD i) := by
  have mask : (0x0000FFFF#32).getLsbD i = decide (i < 16) := by
    rw [show 0x0000FFFF#32 = (BitVec.allOnes 16).setWidth 32 from rfl, BitVec.getLsbD_setWidth, BitVec.getLsbD_allOnes]
    grind
  rw [BitVec.getLsbD_and, mask, Bool.and_comm]

theorem FieldEntry.w1_setW1 (f : FieldEntry) (w : Word) : (f.setW1 w).w1 = w &&& 0x0000FFFF#32 := by
  refine BitVec.eq_of_getLsbD_eq fun i hi => ?_
  simp only [FieldEntry.w1, FieldEntry.setW1, getLsbD_and_low_half, BitVec.getLsbD_append, BitVec.getLsbD_extractLsb',
    BitVec.getLsbD_ofBool, BitVec.getLsbD_zero]
  grind

theorem setWidth_low_half (w : Word) : (w.extractLsb' 0 16).setWidth 32 = w &&& 0x0000FFFF#32 := by
  refine BitVec.eq_of_getLsbD_eq fun i hi => ?_
  simp only [getLsbD_and_low_half, BitVec.getLsbD_setWidth, BitVec.getLsbD_extractLsb', hi, decide_true, Bool.true_and,
    Nat.zero_add]

theorem Memory.busWord_store_same (m : Memory) (a : Nat) (w : Word) : (m.store a (lanesOf w)).busWord a = w := by
  simp [Memory.busWord, Memory.read_store, lanesOf, wordOfLanes_laneOf]

theorem Memory.busWord_store_disjoint (m : Memory) {a b : Nat} (w : Word) (h : b + 4 ≤ a ∨ a + 4 ≤ b) :
    (m.store a (lanesOf w)).busWord b = m.busWord b := by
  have out (x : Nat) (hx : x < a ∨ a + 4 ≤ x) : (m.store a (lanesOf w)).read x = m.read x := by
    rw [Memory.read_store, if_neg (by simp only [lanesOf, List.length_cons, List.length_nil]; omega)]
  simp only [Memory.busWord, out b (by omega), out (b + 1) (by omega), out (b + 2) (by omega), out (b + 3) (by omega)]

theorem bigWord_setBigWord_same (x : Big) (j : Fin 32) (w : Word) : bigWord (setBigWord x j w) j = w := by
  rw [bigWord_setBigWord, if_pos rfl]

theorem bigWord_setBigWord_of_ne (x : Big) {j l : Fin 32} (h : l ≠ j) (w : Word) :
    bigWord (setBigWord x j w) l = bigWord x l := by
  rw [bigWord_setBigWord, if_neg h]

/-- A slot of the key table after one is replaced; a slot the launch does not have is not (20_memory.md R65). -/
theorem State.key_setKey (s : State) (k l : Nat) (slot : KeySlot) :
    (s.setKey k slot).key l = if k = l ∧ k < s.keys.length then slot else s.key l := by
  simp only [State.key, State.setKey_keys, List.getElem?_set]
  by_cases hl : k = l
  · subst hl
    by_cases hk : k < s.keys.length <;> simp [hk]
  · simp [hl]

/-- What the host reads of a key slot it did not replace, or of a part it left, is as before. -/
theorem State.key_setKey_part {α : Type} (part : KeySlot → α) (s : State) {k l : Nat} {slot : KeySlot}
    (h : k = l → part slot = part (s.key k)) : part ((s.setKey k slot).key l) = part (s.key l) := by
  rw [State.key_setKey]
  split
  · next hk => rw [h hk.1, hk.1]
  · rfl

/-- What the host reads of a field entry it did not replace, or of a word it left, is as before. -/
theorem State.ft_setFieldEntry_part {α : Type} (part : FieldEntry → α) (s : State) {i l : Fin 32} {f : FieldEntry}
    (h : i = l → part f = part s.ft[i.val]) : part (s.setFieldEntry i f).ft[l.val] = part s.ft[l.val] := by
  by_cases hl : i = l
  · subst hl
    simpa using h rfl
  · have hval : i.val ≠ l.val := fun he => hl (Fin.ext he)
    simp [hval]

/-! The window after one register changes. -/

theorem readReg_respond (s : State) (a : Response) (r : WindowReg) : readReg (s.respond a) r = readReg s r := by
  cases r <;> rfl

theorem readReg_setKey (s : State) (k : Nat) (slot : KeySlot) (r : WindowReg)
    (hversion : r = .keyVersion k → slot.versionId = (s.key k).versionId)
    (hmod : ∀ j, r = .keyMod k j → bigWord slot.modulus j = bigWord (s.key k).modulus j)
    (hexp : ∀ j, r = .keyExp k j → bigWord slot.exponent j = bigWord (s.key k).exponent j) :
    readReg (s.setKey k slot) r = readReg s r := by
  cases r with
  | keyVersion l => exact s.key_setKey_part KeySlot.versionId fun hl => hversion (hl ▸ rfl)
  | keyMod l j => exact s.key_setKey_part (fun x => bigWord x.modulus j) fun hl => hmod j (hl ▸ rfl)
  | keyExp l j => exact s.key_setKey_part (fun x => bigWord x.exponent j) fun hl => hexp j (hl ▸ rfl)
  | _ => rfl

theorem readReg_setFieldEntry (s : State) (i : Fin 32) (f : FieldEntry) (r : WindowReg)
    (hw0 : r = .ftW0 i → f.w0 = s.ft[i.val].w0) (hw1 : r = .ftW1 i → f.w1 = s.ft[i.val].w1) :
    readReg (s.setFieldEntry i f) r = readReg s r := by
  cases r with
  | ftW0 l => exact s.ft_setFieldEntry_part FieldEntry.w0 fun hl => hw0 (hl ▸ rfl)
  | ftW1 l => exact s.ft_setFieldEntry_part FieldEntry.w1 fun hl => hw1 (hl ▸ rfl)
  | _ => rfl

/-- A word stored in PT changes no other word of PT and none of CT. -/
theorem readReg_storePt (s : State) (w : Nat) (v : Word) {ks off : Nat} {r : WindowReg} (hr : r.StandsAt ks off)
    (hne : r ≠ .pt w) : readReg { s with mem := s.mem.store (ptBase + 4 * w) (lanesOf v) } r = readReg s r := by
  cases r with
  | ct l =>
    simp only [WindowReg.StandsAt] at hr
    simp only [readReg]
    exact Memory.busWord_store_disjoint _ v (by simp only [ctBase, ptBase]; omega)
  | pt l =>
    have hl : l ≠ w := fun h => hne (h ▸ rfl)
    simp only [readReg]
    exact Memory.busWord_store_disjoint _ v (by omega)
  | _ => rfl

/-- Where no bit is reserved the word is kept whole. -/
theorem and_keptBits_all {off : Nat} (hlen : off ≠ 0x014) (hft : ¬ (0x3000 ≤ off ∧ off < 0x3100 ∧ off % 8 = 4)) (v : Word) :
    v &&& keptBits off = v := by
  rw [keptBits, if_neg hlen, if_neg hft, show 0xFFFFFFFF#32 = BitVec.allOnes 32 from rfl, BitVec.and_allOnes]

/-! A host write of a data register of an idle, unlocked block. -/

section
variable {s : State} {r r' : WindowReg} {off off' : Nat}

/-- The written register reads back (10_state.md R33, R34, R37, R38, R41, R42). -/
theorem readReg_writeReg_same (hc : s.configInv) (hidle : s.status.busy = false) (hopen : s.ctrl.keyLock = false)
    (hr : r.StandsAt s.cfg.keySlots off) (hd : r.isData = true) (v : Word) :
    readReg (writeReg s v r) r = v &&& keptBits off := by
  obtain ⟨_, hlen⟩ := hc
  cases r with simp only [WindowReg.StandsAt] at hr
  | ptLen =>
    subst hr
    simp only [writeReg, State.guarded_idle hidle]
    exact setWidth_low_half v
  | opBase j | opExp j | opMod j =>
    rw [and_keptBits_all (by omega) (by omega)]
    simp only [writeReg, State.guarded_idle hidle]
    exact bigWord_setBigWord_same _ j v
  | keyVersion k =>
    obtain ⟨hk, _, rfl⟩ := hr
    rw [and_keptBits_all (by omega) (by omega)]
    simp only [writeReg, State.guardedKey_unlocked_idle hopen hidle, readReg, State.key_setKey, hlen, hk, and_self, if_true]
  | keyMod k j | keyExp k j =>
    obtain ⟨hk, _, rfl⟩ := hr
    rw [and_keptBits_all (by omega) (by omega)]
    simp only [writeReg, State.guardedKey_unlocked_idle hopen hidle, readReg, State.key_setKey, hlen, hk, and_self, if_true,
      bigWord_setBigWord_same]
  | pt w =>
    rw [and_keptBits_all (by omega) (by omega)]
    simp only [writeReg, State.guarded_idle hidle]
    exact Memory.busWord_store_same _ _ v
  | ftW0 i =>
    rw [and_keptBits_all (by omega) (by omega)]
    simp only [writeReg, State.guarded_idle hidle, readReg, State.setFieldEntry_ft, Vector.getElem_set_self]
    exact FieldEntry.w0_setW0 _ v
  | ftW1 i =>
    rw [keptBits, if_neg (by omega), if_pos (by omega)]
    simp only [writeReg, State.guarded_idle hidle, readReg, State.setFieldEntry_ft, Vector.getElem_set_self]
    exact FieldEntry.w1_setW1 _ v
  | _ => cases hd

/-- Every other register reads as before. -/
theorem readReg_writeReg_of_ne {ks : Nat} (hidle : s.status.busy = false) (hopen : s.ctrl.keyLock = false)
    (hd : r.isData = true) (hr' : r'.StandsAt ks off') (hne : r' ≠ r) (v : Word) :
    readReg (writeReg s v r) r' = readReg s r' := by
  cases r with
  | ptLen =>
    simp only [writeReg, State.guarded_idle hidle]
    cases r' with
    | ptLen => exact absurd rfl hne
    | _ => rfl
  | opBase j =>
    simp only [writeReg, State.guarded_idle hidle]
    cases r' with
    | opBase l => exact bigWord_setBigWord_of_ne _ (fun (hl : l = j) => hne (hl ▸ rfl)) v
    | _ => rfl
  | opExp j =>
    simp only [writeReg, State.guarded_idle hidle]
    cases r' with
    | opExp l => exact bigWord_setBigWord_of_ne _ (fun (hl : l = j) => hne (hl ▸ rfl)) v
    | _ => rfl
  | opMod j =>
    simp only [writeReg, State.guarded_idle hidle]
    cases r' with
    | opMod l => exact bigWord_setBigWord_of_ne _ (fun (hl : l = j) => hne (hl ▸ rfl)) v
    | _ => rfl
  | keyVersion k =>
    simp only [writeReg, State.guardedKey_unlocked_idle hopen hidle]
    exact readReg_setKey s k _ r' (fun h => absurd h hne) (fun _ _ => rfl) (fun _ _ => rfl)
  | keyMod k j =>
    simp only [writeReg, State.guardedKey_unlocked_idle hopen hidle]
    exact readReg_setKey s k _ r' (fun _ => rfl)
      (fun l h => bigWord_setBigWord_of_ne _ (fun (hl : l = j) => hne (hl ▸ h)) v) (fun _ _ => rfl)
  | keyExp k j =>
    simp only [writeReg, State.guardedKey_unlocked_idle hopen hidle]
    exact readReg_setKey s k _ r' (fun _ => rfl) (fun _ _ => rfl)
      (fun l h => bigWord_setBigWord_of_ne _ (fun (hl : l = j) => hne (hl ▸ h)) v)
  | pt w =>
    simp only [writeReg, State.guarded_idle hidle]
    exact readReg_storePt s w v hr' hne
  | ftW0 i =>
    simp only [writeReg, State.guarded_idle hidle]
    exact readReg_setFieldEntry s i _ r' (fun h => absurd h hne) (fun _ => rfl)
  | ftW1 i =>
    simp only [writeReg, State.guarded_idle hidle]
    exact readReg_setFieldEntry s i _ r' (fun _ => rfl) (fun h => absurd h hne)
  | _ => cases hd

end

/-- No data register stands at two offsets. -/
theorem WindowReg.standsAt_unique {ks off off' : Nat} {r : WindowReg} (hd : r.isData = true) (h : r.StandsAt ks off)
    (h' : r.StandsAt ks off') : off = off' := by
  cases r with simp only [WindowReg.StandsAt] at h h'
  | ptLen | opBase _ | opExp _ | opMod _ | keyVersion _ | keyMod _ _ | keyExp _ _ | pt _ | ftW0 _ | ftW1 _ => omega
  | _ => cases hd

/-- The window through the port: the offset after a write of an aligned word. -/
theorem readOffset_busWrite {off : Nat} (h4 : off % 4 = 0) (v : Word) (s : State) (off' : Nat) :
    readOffset (busWrite .w32 off v s) off' =
      readReg (writeReg s v (regAt s.cfg.keySlots off)) (regAt s.cfg.keySlots off') := by
  rw [readOffset, (sameLaunch_busWrite .w32 off v s).1, busWrite_aligned h4, readReg_respond]

/-- Any bit field of a word, as arithmetic on its number. -/
theorem toNat_extractLsb' (w : Word) (a n : Nat) : (w.extractLsb' a n).toNat = w.toNat / 2 ^ a % 2 ^ n := by
  rw [BitVec.extractLsb'_toNat, Nat.shiftRight_eq_div_pow]

theorem toNat_getLsbD (w : Word) (i : Nat) : (w.getLsbD i).toNat = w.toNat / 2 ^ i % 2 := Nat.toNat_testBit _ _

/-- An idle block takes a write of FT[i].W0 (10_state.md R41). -/
theorem busWrite_ftW0 {s : State} (hidle : s.status.busy = false) (i : Fin 32) (v : Word) :
    busWrite .w32 (0x3000 + 8 * i.val) v s =
      (s.setFieldEntry i (s.ft[i.val].setW0 v)).respond { busError := false, data := none } := by
  rw [busWrite_aligned (by omega), regAt_ftW0, writeReg, State.guarded_idle hidle]

/-- An idle block takes a write of FT[i].W1 (10_state.md R42). -/
theorem busWrite_ftW1 {s : State} (hidle : s.status.busy = false) (i : Fin 32) (v : Word) :
    busWrite .w32 (0x3004 + 8 * i.val) v s =
      (s.setFieldEntry i (s.ft[i.val].setW1 v)).respond { busError := false, data := none } := by
  rw [busWrite_aligned (by omega), regAt_ftW1, writeReg, State.guarded_idle hidle]

/-- The offsets of the statement are those of data registers. -/
theorem isData_regAt {ks off : Nat} (hks : ks ≤ 8) (h : isGuardedOffset off ∨ isKeyOffset ks off) :
    off % 4 = 0 ∧ (regAt ks off).isData = true := by
  obtain h | h := h
  · exact ⟨h.1, isData_of_isGuardedOffset (regAt_standsAt ks h.1) h⟩
  · have h4 := (isKeyOffset_aligned hks h).1
    exact ⟨h4, isData_of_isKeyOffset hks (regAt_standsAt ks h4) h⟩

/-- Settles O46: the written register takes the word, and no other register stands at its offset. -/
theorem writtenWordReadsBack : Obligations.WrittenWordReadsBack := by
  refine ⟨fun s off v hc hidle hopen hoff => ?_, fun s i v hidle => ?_, fun s i v hidle => ?_⟩
  · obtain ⟨h4, hd⟩ := isData_regAt (Config.keySlots_le hc.1) hoff
    have hr := regAt_standsAt s.cfg.keySlots h4
    refine ⟨?_, fun off' h4' hne => ?_⟩
    · rw [readOffset_busWrite h4]
      exact readReg_writeReg_same hc hidle hopen hr hd v
    · have hr' := regAt_standsAt s.cfg.keySlots h4'
      rw [readOffset_busWrite h4]
      exact readReg_writeReg_of_ne hidle hopen hd hr'
        (fun he => hne (WindowReg.standsAt_unique hd (he ▸ hr') hr)) v
  · refine ⟨s.ft[i.val].setW0 v, busWrite_ftW0 hidle i v, ?_, ?_, ?_, rfl, rfl, rfl, rfl, rfl⟩
    · exact (toNat_extractLsb' v 0 16).trans (by rw [pow_zero, Nat.div_one])
    · exact toNat_extractLsb' v 16 8
    · have := toNat_extractLsb' v 24 8
      have := v.isLt
      simp only [FieldEntry.setW0]
      omega
  · refine ⟨s.ft[i.val].setW1 v, busWrite_ftW1 hidle i v, rfl, rfl, rfl, ?_, ?_, ?_, ?_, ?_⟩
    · exact (toNat_extractLsb' v 0 8).trans (by rw [pow_zero, Nat.div_one])
    · exact toNat_extractLsb' v 8 4
    · exact toNat_extractLsb' v 12 2
    · exact toNat_getLsbD v 14
    · exact toNat_getLsbD v 15

end Sys2Proof.Machine
end

section
/-! The family of 20_memory.md. Which accesses the block performs, where each register stands, the word each register reads as,
and what a read returns while a command runs. -/

namespace Sys2Proof.Machine

/-! The map of 10_state.md section 1, with its converse: a register stands where `WindowReg.StandsAt` says. -/

theorem regAt_of_isUnmappedOffset {ks off : Nat} (h : isUnmappedOffset ks off) : regAt ks off = .unmapped := by
  have hr := regAt_standsAt ks h.1
  cases hreg : regAt ks off with
  | unmapped => rfl
  | _ =>
    rw [hreg] at hr
    simp only [WindowReg.StandsAt] at hr
    simp only [isUnmappedOffset] at h
    omega

/-- The converse of `regAt_standsAt`: what stands at an offset is what the map gives there. -/
theorem regAt_of_standsAt {ks off : Nat} {r : WindowReg} (hr : r.StandsAt ks off) : regAt ks off = r := by
  cases r with simp only [WindowReg.StandsAt] at hr
  | id | cmd | status | ctrl | hexcnt | ptLen | recStatus | fieldValid | params =>
    subst hr
    rfl
  | opBase j | opExp j | opMod j | opRes j =>
    simp only [regAt]
    repeat rw [if_neg (by omega)]
    rw [if_pos (by omega)]
    exact congrArg _ (Fin.ext (by simp only [Fin.val_ofNat]; omega))
  | keyVersion k =>
    obtain ⟨hk, h8, rfl⟩ := hr
    exact regAt_keyVersion hk h8
  | keyMod k j | keyExp k j =>
    simp only [regAt, keyRegAt]
    repeat rw [if_neg (by omega)]
    rw [if_pos (by omega)]
    repeat rw [if_neg (by omega)]
    rw [if_pos (by omega)]
    exact congrArg₂ _ (by omega) (Fin.ext (by simp only [Fin.val_ofNat]; omega))
  | ct w | pt w =>
    simp only [regAt]
    repeat rw [if_neg (by omega)]
    rw [if_pos (by omega)]
    exact congrArg _ (by omega)
  | ftW0 i => exact hr ▸ regAt_ftW0 ks i
  | ftW1 i => exact hr ▸ regAt_ftW1 ks i
  | fvLen i => exact hr ▸ regAt_fvLen ks i
  | fvData i w =>
    simp only [regAt, fvRegAt]
    repeat rw [if_neg (by omega)]
    rw [if_pos (by omega), if_neg (by omega), if_pos (by omega)]
    exact congrArg₂ _ (Fin.ext (by simp only [Fin.val_ofNat]; omega)) (Fin.ext (by simp only [Fin.val_ofNat]; omega))
  | unmapped =>
    obtain h | h := hr
    · exact regAt_of_isUnmappedOffset h
    · simp only [regAt]
      repeat rw [if_neg (by omega)]

theorem readOffset_of_standsAt {s : State} {off : Nat} {r : WindowReg} (hr : r.StandsAt s.cfg.keySlots off) :
    readOffset s off = readReg s r := by
  rw [readOffset, regAt_of_standsAt hr]

/-- No register's word depends on the events still to come. -/
theorem readReg_schedule (s : State) (rest : List Event) (r : WindowReg) :
    readReg { s with schedule := rest } r = readReg s r := by
  cases r <;> rfl

/-! Accesses the block performs, and accesses it does not (20_memory.md R64). -/

theorem performed_eq_false {size : AccessSize} {off : Nat} (h : size ≠ .w32 ∨ off % 4 ≠ 0) :
    performed size off = false := by
  obtain h | h := h <;> simp [performed, h]

theorem busRead_malformed {size : AccessSize} {off : Nat} (h : size ≠ .w32 ∨ off % 4 ≠ 0) (s : State) :
    busRead size off s = s.respond { busError := true, data := some 0#32 } := by
  simp [busRead, performed_eq_false h]

theorem busWrite_malformed {size : AccessSize} {off : Nat} (h : size ≠ .w32 ∨ off % 4 ≠ 0) (v : Word) (s : State) :
    busWrite size off v s = s.respond { busError := true, data := none } := by
  simp [busWrite, performed_eq_false h]

/-- An aligned 32-bit read answers the register there and does nothing else (20_memory.md R66). -/
theorem busRead_aligned {off : Nat} (h4 : off % 4 = 0) (s : State) :
    busRead .w32 off s = s.respond { busError := false, data := some (readOffset s off) } := by
  simp [busRead, performed, h4, readOffset]

section
variable {s : State} {size : AccessSize} {off : Nat} {rest : List Event}

/-- A step that takes a host read in the window. -/
theorem step_busRead (hs : s.schedule = .read size (s.cfg.base + off) :: rest) (hoff : off < 0x5000) :
    step s = .next (busRead size off { s with schedule := rest }) := by
  simp only [step, stepSchedule, hs, takeEvent, windowOffset_base s.cfg hoff]

/-- A step that takes a host write in the window. -/
theorem step_busWrite {v : Word} (hs : s.schedule = .write size (s.cfg.base + off) v :: rest) (hoff : off < 0x5000) :
    step s = .next (busWrite size off v { s with schedule := rest }) := by
  simp only [step, stepSchedule, hs, takeEvent, windowOffset_base s.cfg hoff]

end

/-- Settles O43: the port answers a malformed access before any register is looked up. -/
theorem malformedAccessHasNoEffect : Obligations.MalformedAccessHasNoEffect := by
  intro s size off v rest hoff hbad
  refine ⟨fun hs => ?_, fun hs => ?_⟩
  · rw [step_busRead hs hoff, busRead_malformed hbad]
    rfl
  · rw [step_busWrite hs hoff, busWrite_malformed hbad]
    rfl

/-! Offsets whose writes the block ignores. -/

/-- A register whose write changes nothing: the read-only ones, and what is unmapped or reserved (10_state.md R47). -/
def WindowReg.ignoresWrites : WindowReg → Bool
  | .id | .hexcnt | .recStatus | .fieldValid | .params | .opRes _ | .ct _ | .fvLen _ | .fvData _ _ | .unmapped => true
  | .cmd | .status | .ctrl | .ptLen | .opBase _ | .opExp _ | .opMod _ | .keyVersion _ | .keyMod _ _ | .keyExp _ _ | .pt _
  | .ftW0 _ | .ftW1 _ => false

theorem writeReg_of_ignoresWrites {r : WindowReg} (h : r.ignoresWrites = true) (s : State) (v : Word) :
    writeReg s v r = s := by
  cases r with
  | id | hexcnt | recStatus | fieldValid | params | opRes _ | ct _ | fvLen _ | fvData _ _ | unmapped => rfl
  | _ => cases h

theorem ignoresWrites_of_isReadOnlyOffset {ks off : Nat} {r : WindowReg} (hr : r.StandsAt ks off)
    (h : isReadOnlyOffset off) : r.ignoresWrites = true := by
  obtain ⟨h4, h⟩ := h
  cases r with
  | id | hexcnt | recStatus | fieldValid | params | opRes _ | ct _ | fvLen _ | fvData _ _ | unmapped => rfl
  | _ =>
    simp only [WindowReg.StandsAt] at hr
    omega

theorem ignoresWrites_regAt {ks off : Nat} (h : isUnmappedOffset ks off ∨ isReadOnlyOffset off) :
    off % 4 = 0 ∧ (regAt ks off).ignoresWrites = true := by
  obtain h | h := h
  · exact ⟨h.1, regAt_of_isUnmappedOffset h ▸ rfl⟩
  · exact ⟨h.1, ignoresWrites_of_isReadOnlyOffset (regAt_standsAt ks h.1) h⟩

/-- Settles O45: the map gives such an offset nothing, or a register whose write changes nothing, flags included. -/
theorem unmappedAndReadOnlyOffsets : Obligations.UnmappedAndReadOnlyOffsets := by
  refine fun s off v => ⟨fun h => ?_, fun h => ?_⟩
  · rw [busRead_aligned h.1, readOffset, regAt_of_isUnmappedOffset h]
    rfl
  · obtain ⟨h4, hignored⟩ := ignoresWrites_regAt h
    rw [busWrite_aligned h4, writeReg_of_ignoresWrites hignored]
    rfl

/-! The words of the registers as arithmetic on their fields. -/

/-- Fields side by side in a word are a sum, the upper one scaled by the width of the lower. -/
theorem toNat_append_eq_add {m n : Nat} (x : BitVec m) (y : BitVec n) : (x ++ y).toNat = 2 ^ n * x.toNat + y.toNat := by
  rw [BitVec.toNat_append, ← Nat.shiftLeft_add_eq_or_of_lt y.isLt, Nat.shiftLeft_eq, Nat.mul_comm]

theorem toNat_wordOfLanes (b0 b1 b2 b3 : Byte) :
    (wordOfLanes b0 b1 b2 b3).toNat = b0.toNat + 2 ^ 8 * b1.toNat + 2 ^ 16 * b2.toNat + 2 ^ 24 * b3.toNat := by
  simp only [wordOfLanes, toNat_append_eq_add]
  omega

theorem toNat_bigWord (x : Big) (j : Fin 32) : (bigWord x j).toNat = x.toNat / 2 ^ (32 * j.val) % 2 ^ 32 := by
  rw [bigWord, BitVec.extractLsb'_toNat, Nat.shiftRight_eq_div_pow]

/-- The codes of 10_state.md R26. -/
theorem toNat_errCode (e : ErrCode) :
    (errCode e).toNat = if e = .invalidInput then 1 else if e = .crypto then 2
      else if e = .malformedRecord then 3 else if e = .illegalCommand then 4 else 0 := by
  cases e <;> rfl

theorem toNat_statusWord (t : Status) :
    (statusWord t).toNat = t.busy.toNat + 2 * t.done.toNat + 4 * (errCode t.err).toNat + 2 ^ 8 * t.overrun.toNat
      + 2 ^ 9 * t.lockViolation.toNat := by
  simp only [statusWord, toNat_append_eq_add, BitVec.toNat_ofBool, BitVec.toNat_ofNat]
  omega

theorem toNat_ctrlWord (c : Ctrl) : (ctrlWord c).toNat = c.irqEn.toNat + 2 * c.keyLock.toNat := by
  simp only [ctrlWord, toNat_append_eq_add, BitVec.toNat_ofBool, BitVec.toNat_ofNat]
  omega

theorem toNat_recStatusWord (s : State) : (recStatusWord s).toNat = s.recValid.toNat + 2 * s.recComplete.toNat := by
  simp only [recStatusWord, toNat_append_eq_add, BitVec.toNat_ofBool, BitVec.toNat_ofNat]
  omega

/-- Bit i of FIELD_VALID is slot i's flag (10_state.md R40). -/
theorem toNat_fieldValidWord_bit (v : Vector Bool 32) (i : Fin 32) :
    (fieldValidWord v).toNat / 2 ^ i.val % 2 = v[i.val].toNat := by
  rw [← toNat_getLsbD, fieldValidWord, BitVec.getLsbD_ofFnLE, dif_pos i.isLt]

/-- KEY_SLOTS is at most 8, so it fits its byte of PARAMS (10_state.md R32). -/
theorem toNat_paramsWord {c : Config} (h : c.wf = true) :
    (paramsWord c).toNat = c.keySlots + 2 ^ 8 * 32 + 2 ^ 16 * 64 + 2 ^ 24 * 5 := by
  have := Config.keySlots_le h
  simp only [paramsWord, toNat_append_eq_add, BitVec.toNat_ofNat]
  omega

theorem FieldEntry.toNat_w0 (f : FieldEntry) :
    f.w0.toNat = f.offset.toNat + 2 ^ 16 * f.width.toNat + 2 ^ 24 * f.term.toNat := by
  simp only [FieldEntry.w0, toNat_append_eq_add]
  omega

theorem FieldEntry.toNat_w1 (f : FieldEntry) :
    f.w1.toNat = f.fieldId.toNat + 2 ^ 8 * f.elem.toNat + 2 ^ 12 * f.kind.toNat + 2 ^ 14 * f.rule.toNat
      + 2 ^ 15 * f.en.toNat := by
  simp only [FieldEntry.w1, toNat_append_eq_add, BitVec.toNat_ofBool, BitVec.toNat_ofNat]
  omega

/-- A 16-bit register fills the low half of its word. -/
theorem toNat_setWidth_word (x : BitVec 16) : (x.setWidth 32).toNat = x.toNat :=
  BitVec.toNat_setWidth_of_le (by decide)

/-- LEN is at most 64 (10_state.md R44). -/
theorem FieldValue.toNat_len_word (v : FieldValue) : (BitVec.ofNat 32 v.len.val).toNat = v.len.val := by
  have := v.len.isLt
  simp only [BitVec.toNat_ofNat]
  omega

/-- Settles O44: an aligned read is the port's answer alone, and each register's word is taken from its place in the map. -/
theorem readsHaveNoSideEffect : Obligations.ReadsHaveNoSideEffect := by
  refine fun s => ⟨fun off rest hoff h4 hs => ?_, rfl, rfl, ?_, fun hidle => ?_, toNat_setWidth_word s.hexcnt,
    toNat_setWidth_word s.ptLen, toNat_recStatusWord s, toNat_fieldValidWord_bit s.fieldValid, toNat_paramsWord,
    fun k hk h8 => ?_, fun i => ⟨?_, ?_, ?_⟩⟩
  · rw [step_busRead hs hoff, busRead_aligned h4, readOffset, readReg_schedule]
    rfl
  · exact toNat_errCode s.status.err ▸ toNat_statusWord s.status
  · exact State.ctrlSeen_idle hidle ▸ toNat_ctrlWord s.ctrlSeen
  · rw [readOffset, regAt_keyVersion hk h8]
    rfl
  · rw [readOffset, regAt_ftW0]
    exact s.ft[i.val].toNat_w0
  · rw [readOffset, regAt_ftW1]
    exact s.ft[i.val].toNat_w1
  · rw [readOffset, regAt_fvLen]
    exact s.fv[i.val].toNat_len_word

/-- A bus word of CT or PT as the sum of its bytes. -/
theorem Memory.toNat_busWord (m : Memory) (a : Nat) :
    (m.busWord a).toNat = (m.read a).toNat + 2 ^ 8 * (m.read (a + 1)).toNat + 2 ^ 16 * (m.read (a + 2)).toNat
      + 2 ^ 24 * (m.read (a + 3)).toNat :=
  toNat_wordOfLanes _ _ _ _

/-- Settles O47: the words of CT, PT and FV[i].DATA stand where the map puts them, and each is the sum of its lanes. -/
theorem byteLanesAreLittleEndian : Obligations.ByteLanesAreLittleEndian := by
  refine fun s => ⟨fun w hw => ?_, fun w hw => ?_, fun i w => ?_⟩
  · rw [readOffset_of_standsAt (r := .ct w) (by simp only [WindowReg.StandsAt, hw, true_and])]
    exact s.mem.toNat_busWord _
  · rw [readOffset_of_standsAt (r := .pt w) (by simp only [WindowReg.StandsAt, hw, true_and])]
    exact s.mem.toNat_busWord _
  · rw [readOffset_of_standsAt (r := .fvData i w) (by simp only [WindowReg.StandsAt]; omega)]
    exact toNat_wordOfLanes _ _ _ _

/-- A register that reads as word j of a big integer reads as bits [32j+31:32j] of it. -/
theorem toNat_readOffset_bigWord {s : State} {off : Nat} {r : WindowReg} {x : Big} {j : Fin 32}
    (hr : r.StandsAt s.cfg.keySlots off) (hword : readReg s r = bigWord x j) :
    (readOffset s off).toNat = x.toNat / 2 ^ (32 * j.val) % 2 ^ 32 := by
  rw [readOffset_of_standsAt hr, hword, toNat_bigWord]

/-- Settles O48: each of the six kinds of register stands at its word's offset and reads as that word. -/
theorem bigRegistersAreWordLittleEndian : Obligations.BigRegistersAreWordLittleEndian := by
  refine fun s j => ⟨?_, ?_, ?_, ?_, fun k hk h8 => ⟨?_, ?_⟩⟩
  · exact toNat_readOffset_bigWord (r := .opBase j) (by simp only [WindowReg.StandsAt]) rfl
  · exact toNat_readOffset_bigWord (r := .opExp j) (by simp only [WindowReg.StandsAt]) rfl
  · exact toNat_readOffset_bigWord (r := .opMod j) (by simp only [WindowReg.StandsAt]) rfl
  · exact toNat_readOffset_bigWord (r := .opRes j) (by simp only [WindowReg.StandsAt]) rfl
  · exact toNat_readOffset_bigWord (r := .keyMod k j) (by simp only [WindowReg.StandsAt]; omega) rfl
  · exact toNat_readOffset_bigWord (r := .keyExp k j) (by simp only [WindowReg.StandsAt]; omega) rfl

/-! Reads while busy (20_memory.md R68). -/

theorem regAt_ne_status {ks off : Nat} (h : off ≠ 0x008) : regAt ks off ≠ .status := fun hr => h (regAt_eq_status hr)

/-- An acceptance writes STATUS and PENDING, and keeps CTRL as a read will return it. -/
theorem readReg_accept {s : State} (hidle : s.status.busy = false) (w : Word) {r : WindowReg} (hr : r ≠ .status) :
    readReg (s.accept w) r = readReg s r := by
  cases r with
  | status => exact absurd rfl hr
  | ctrl =>
    simp only [readReg, State.ctrlSeen_idle hidle, State.ctrlSeen_busy (s := s.accept w) rfl, State.accept_ctrlAtAcceptance]
  | _ => rfl

/-- While busy the flags of STATUS and a written CTRL show in no register but STATUS. -/
theorem readReg_flags_busy {s : State} (hb : s.status.busy = true) (o l d : Bool) (c : Ctrl) (q : Option Response)
    {r : WindowReg} (hr : r ≠ .status) :
    readReg
      { s with
        status := { s.status with overrun := o, lockViolation := l, done := d }, ctrl := c, response := q } r
      = readReg s r := by
  cases r with
  | status => exact absurd rfl hr
  | ctrl => simp only [readReg, State.ctrlSeen, hb, if_true]
  | _ => rfl

theorem Event.ne_of_isAccess {e : Event} (h : e.isAccess = true) : e ≠ .engine ∧ e ≠ .reset := by
  cases e with
  | read _ _ | write _ _ _ => exact ⟨nofun, nofun⟩
  | reset | engine => cases h

/-- Everything a host access while busy leaves: BUSY, PENDING and the reading of every register but STATUS. -/
theorem takeEvent_access_busy {e : Event} {s t : State} (hb : s.status.busy = true) (he : e.isAccess = true)
    (h : takeEvent e s = .next t) :
    t.status.busy = true ∧ t.pending = s.pending ∧ ∀ off, off ≠ 0x008 → readOffset t off = readOffset s off := by
  obtain ⟨hengine, hreset⟩ := Event.ne_of_isAccess he
  obtain ⟨o, l, d, c, q, rfl⟩ := takeEvent_busy hb hengine hreset h
  exact ⟨hb, rfl, fun off hoff => readReg_flags_busy hb o l d c q (regAt_ne_status hoff)⟩

/-- STATUS while busy, by the handshake of 10_state.md R23 to R26. -/
theorem toNat_statusWord_busy {s : State} (hs : s.handshakeInv) (hb : s.status.busy = true) :
    (statusWord s.status).toNat = 1 + 2 ^ 8 * s.status.overrun.toNat + 2 ^ 9 * s.status.lockViolation.toNat := by
  obtain ⟨_, hflags⟩ := hs
  obtain ⟨hdone, herr⟩ := hflags hb
  rw [toNat_statusWord, hb, hdone, herr]
  rfl

/-- Settles O49: an acceptance and every access while busy leave what a read returns, STATUS alone excepted. -/
theorem readsWhileBusy : Obligations.ReadsWhileBusy := by
  refine ⟨fun s hs hb => toNat_statusWord_busy hs hb, fun s w hidle off _ hoff => ?_,
    fun s s' e rest hb he hs hstep => ?_⟩
  · rw [readOffset_busWrite (by decide), regAt_of_standsAt (r := .cmd) (by simp only [WindowReg.StandsAt]),
      writeReg_cmd_idle hidle]
    exact readReg_accept hidle w (regAt_ne_status hoff)
  · obtain ⟨hnil, _⟩ | ⟨e', rest', hs', htake⟩ := step_cases hstep
    · cases hs.symm.trans hnil
    · cases hs.symm.trans hs'
      obtain ⟨hbusy, hpending, hread⟩ := takeEvent_access_busy (s := { s with schedule := rest }) hb he htake
      exact ⟨hbusy, hpending, fun off _ hoff => (hread off hoff).trans (readReg_schedule s rest _)⟩

end Sys2Proof.Machine
end

section
/-! The family of 30_encoding.md. The fields of a command word, what the decoder answers, and how it, the encoder and the command
table fit together. -/

namespace Sys2Proof

open Machine

/-! The three fields of a command word (30_encoding.md R91). -/

theorem toNat_opcOf (w : Word) : (opcOf w).toNat = w.toNat % 256 :=
  (toNat_extractLsb' w 0 8).trans (congrArg (· % 256) (Nat.div_one w.toNat))

theorem toNat_argOf (w : Word) : (argOf w).toNat = w.toNat / 256 % 256 := toNat_extractLsb' w 8 8

theorem toNat_rsvOf (w : Word) : (rsvOf w).toNat = w.toNat / 65536 := by
  have hfield : (rsvOf w).toNat = w.toNat / 65536 % 65536 := toNat_extractLsb' w 16 16
  have := w.isLt
  omega

theorem toNat_cmd32 (arg opc : Byte) : (cmd32 arg opc).toNat = 256 * arg.toNat + opc.toNat := by
  rw [cmd32, BitVec.toNat_append, BitVec.toNat_append, BitVec.toNat_zero, Nat.zero_shiftLeft, Nat.zero_or, Nat.shiftLeft_eq,
    Nat.mul_comm, ← Nat.two_pow_add_eq_or_of_lt opc.isLt]

@[simp] theorem opcOf_cmd32 (arg opc : Byte) : opcOf (cmd32 arg opc) = opc := by
  apply BitVec.eq_of_toNat_eq
  rw [toNat_opcOf, toNat_cmd32]
  omega

@[simp] theorem argOf_cmd32 (arg opc : Byte) : argOf (cmd32 arg opc) = arg := by
  apply BitVec.eq_of_toNat_eq
  rw [toNat_argOf, toNat_cmd32]
  omega

@[simp] theorem rsvOf_cmd32 (arg opc : Byte) : rsvOf (cmd32 arg opc) = 0#16 := by
  apply BitVec.eq_of_toNat_eq
  rw [toNat_rsvOf, toNat_cmd32, BitVec.toNat_zero]
  omega

/-- With RSV = 0 a word is its ARG and its OPC. -/
theorem cmd32_argOf_opcOf {w : Word} (h : rsvOf w = 0#16) : cmd32 (argOf w) (opcOf w) = w := by
  apply BitVec.eq_of_toNat_eq
  have hrsv : w.toNat / 65536 = 0 := by rw [← toNat_rsvOf, h, BitVec.toNat_zero]
  rw [toNat_cmd32, toNat_argOf, toNat_opcOf]
  omega

/-! What the decoder answers (R94), by the way OPC has ARG read (R92). -/

/-- The opcodes whose ARG must be 0x00: NOP, CLEAR_INPUT, MODPOW and DECODE. -/
def plainOpcs : List Byte := [0x00#8, 0x01#8, 0x10#8, 0x20#8]

/-- The opcodes whose ARG is a key slot index: DECRYPT and DECRYPT_DECODE. -/
def slotOpcs : List Byte := [0x11#8, 0x30#8]

/-- The seven assigned opcodes (R93). -/
def assignedOpcs : List Byte := [0x00#8, 0x01#8, 0x02#8, 0x10#8, 0x11#8, 0x20#8, 0x30#8]

theorem noArg_eq_command_iff {arg : Byte} {i j : Instr} : noArg arg i = .command j ↔ arg = 0#8 ∧ i = j := by
  unfold noArg
  split <;> simp [*]

theorem noArg_illegal_iff {arg : Byte} {i : Instr} : (∃ why, noArg arg i = .illegal why) ↔ arg ≠ 0#8 := by
  unfold noArg
  split <;> simp [*]

theorem keyArg_eq_command_iff {ks : Nat} {arg : Byte} {i j : Instr} :
    keyArg ks arg i = .command j ↔ arg.toNat < ks ∧ i = j := by
  unfold keyArg
  split <;> simp [*]

theorem keyArg_illegal_iff {ks : Nat} {arg : Byte} {i : Instr} :
    (∃ why, keyArg ks arg i = .illegal why) ↔ ks ≤ arg.toNat := by
  unfold keyArg
  split <;> simp_all

/-- Everything the decoder can answer. The command it looks at, where there is one, is that of the word's own OPC and ARG. -/
theorem decode_cases (ks : Nat) (w : Word) :
    (rsvOf w ≠ 0#16 ∧ decode ks w = .illegal .reservedBits) ∨
    rsvOf w = 0#16 ∧
      ((opcOf w ∈ plainOpcs ∧ ∃ i, encode i = cmd32 0#8 (opcOf w) ∧ i.wf ks = true ∧ decode ks w = noArg (argOf w) i) ∨
       (opcOf w = 0x02#8 ∧ decode ks w = .command (.pushHex (argOf w))) ∨
       (opcOf w ∈ slotOpcs ∧ ∃ i, encode i = cmd32 (argOf w) (opcOf w) ∧ i.wf ks = decide ((argOf w).toNat < ks) ∧
          decode ks w = keyArg ks (argOf w) i) ∨
       (opcOf w ∉ assignedOpcs ∧ decode ks w = .illegal .unassignedOpcode)) := by
  by_cases hrsv : rsvOf w = 0#16
  · refine .inr ⟨hrsv, ?_⟩
    simp only [decode, hrsv, ne_eq, not_true_eq_false, if_false]
    split_ifs with h00 h01 h02 h10 h11 h20 h30
    · exact .inl ⟨h00 ▸ by decide, .nop, congrArg (cmd32 _) h00.symm, rfl, rfl⟩
    · exact .inl ⟨h01 ▸ by decide, .clearInput, congrArg (cmd32 _) h01.symm, rfl, rfl⟩
    · exact .inr (.inl ⟨h02, rfl⟩)
    · exact .inl ⟨h10 ▸ by decide, .modpow, congrArg (cmd32 _) h10.symm, rfl, rfl⟩
    · exact .inr (.inr (.inl ⟨h11 ▸ by decide, .decrypt (argOf w), congrArg (cmd32 _) h11.symm, rfl, rfl⟩))
    · exact .inl ⟨h20 ▸ by decide, .decode, congrArg (cmd32 _) h20.symm, rfl, rfl⟩
    · exact .inr (.inr (.inl ⟨h30 ▸ by decide, .decryptDecode (argOf w), congrArg (cmd32 _) h30.symm, rfl, rfl⟩))
    · exact .inr (.inr (.inr ⟨by simp [assignedOpcs, *], rfl⟩))
  · exact .inl ⟨hrsv, if_pos hrsv⟩

/-! The decoder and the encoder agree (R91 to R94). -/

/-- Settles O2: the fields of the word `encode` builds are the command's OPC and operand, and `decode` reads them back. -/
theorem decodeOfEncode : Obligations.DecodeOfEncode := by
  intro ks i hwf
  cases i with
  | nop | clearInput | modpow | decode => rfl
  | pushHex c => simp [decode, encode]
  | decrypt k | decryptDecode k =>
    have hk : k.toNat < ks := of_decide_eq_true hwf
    simp [decode, encode, keyArg_eq_command_iff, hk]

/-- Settles O3: each answer that is a command is built from the word's own OPC and ARG, which are the whole word. -/
theorem encodeOfDecode : Obligations.EncodeOfDecode := by
  intro ks w j h
  obtain ⟨_, hd⟩ | ⟨hrsv, ⟨_, i, henc, hwf, hd⟩ | ⟨hopc, hd⟩ | ⟨_, i, henc, hwf, hd⟩ | ⟨_, hd⟩⟩ := decode_cases ks w
  · cases h.symm.trans hd
  · obtain ⟨harg, rfl⟩ := noArg_eq_command_iff.1 (hd.symm.trans h)
    exact ⟨by rw [henc, ← harg, cmd32_argOf_opcOf hrsv], hwf⟩
  · cases h.symm.trans hd
    exact ⟨by rw [encode, ← hopc, cmd32_argOf_opcOf hrsv], rfl⟩
  · obtain ⟨hk, rfl⟩ := keyArg_eq_command_iff.1 (hd.symm.trans h)
    exact ⟨henc.trans (cmd32_argOf_opcOf hrsv), hwf.trans (decide_eq_true hk)⟩
  · cases h.symm.trans hd

/-! The illegal words (R95). -/

/-- The four causes of R95, on the fields of the word. -/
theorem decode_illegal_iff (ks : Nat) (w : Word) :
    (∃ why, decode ks w = .illegal why) ↔
      (rsvOf w ≠ 0#16 ∨ opcOf w ∉ assignedOpcs ∨ (opcOf w ∈ plainOpcs ∧ argOf w ≠ 0#8) ∨
        (opcOf w ∈ slotOpcs ∧ ks ≤ (argOf w).toNat)) := by
  have hplain : ∀ opc ∈ plainOpcs, opc ∈ assignedOpcs ∧ opc ∉ slotOpcs := by decide
  have hslot : ∀ opc ∈ slotOpcs, opc ∈ assignedOpcs ∧ opc ∉ plainOpcs := by decide
  have hpush : 0x02#8 ∈ assignedOpcs ∧ 0x02#8 ∉ plainOpcs ∧ 0x02#8 ∉ slotOpcs := by decide
  obtain ⟨hrsv, hd⟩ | ⟨hrsv, ⟨hopc, i, _, _, hd⟩ | ⟨hopc, hd⟩ | ⟨hopc, i, _, _, hd⟩ | ⟨hopc, hd⟩⟩ := decode_cases ks w
  · simp [hd, hrsv]
  · simp [hd, hrsv, hopc, hplain _ hopc, noArg_illegal_iff]
  · simp [hd, hrsv, hopc, hpush]
  · simp [hd, hrsv, hopc, hslot _ hopc, keyArg_illegal_iff]
  · simp [hd, hrsv, hopc]

theorem opcOf_mem_iff (w : Word) (l : List Byte) : opcOf w ∈ l ↔ w.toNat % 256 ∈ l.map BitVec.toNat := by
  rw [← toNat_opcOf, List.mem_map_of_injective BitVec.toNat_injective]

/-- Settles O4: the causes on the fields, with each field as arithmetic on the word's number. -/
theorem illegalWordsExactly : Obligations.IllegalWordsExactly := by
  intro ks w
  rw [decode_illegal_iff, opcOf_mem_iff, opcOf_mem_iff, opcOf_mem_iff, toNat_argOf, ne_eq, ne_eq, ← BitVec.toNat_inj,
    ← BitVec.toNat_inj, toNat_rsvOf, toNat_argOf]
  rfl

/-! The command table (R93). -/

/-- A mask covers OPC, so a word that selects a row has the row's OPC. -/
theorem opcOf_of_selects {r : TableRow} {w : Word} (hr : r ∈ commandTable) (h : r.selects w = true) :
    opcOf w = opcOf r.matchWord := by
  have hmask : ∀ r ∈ commandTable, opcOf r.mask = BitVec.allOnes 8 := by decide
  have hmatch : w &&& r.mask = r.matchWord := eq_of_beq h
  calc opcOf w = opcOf w &&& opcOf r.mask := by rw [hmask r hr, BitVec.and_allOnes]
    _ = opcOf (w &&& r.mask) := BitVec.extractLsb'_and.symm
    _ = opcOf r.matchWord := by rw [hmatch]

theorem encode_selects (i : Instr) : Laws.EncodesInRow.Statement i := by
  cases i with
  | nop => exact Laws.EncodesInRow.nop
  | clearInput => exact Laws.EncodesInRow.clearInput
  | pushHex c => exact Laws.EncodesInRow.pushHex c
  | modpow => exact Laws.EncodesInRow.modpow
  | decrypt k => exact Laws.EncodesInRow.decrypt k
  | decode => exact Laws.EncodesInRow.decode
  | decryptDecode k => exact Laws.EncodesInRow.decryptDecode k

/-- Settles O5: the rows have distinct opcodes, and a word that decodes is its command's encoding, which selects its row. -/
theorem tableRowsDisjointAndSelected : Obligations.TableRowsDisjointAndSelected := by
  have hopc : ∀ r₁ ∈ commandTable, ∀ r₂ ∈ commandTable, opcOf r₁.matchWord = opcOf r₂.matchWord → r₁ = r₂ := by decide
  refine ⟨fun w r₁ r₂ h₁ h₂ hs₁ hs₂ => ?_, fun ks w i h => ?_⟩
  · exact hopc r₁ h₁ r₂ h₂ ((opcOf_of_selects h₁ hs₁).symm.trans (opcOf_of_selects h₂ hs₂))
  · obtain ⟨rfl, _⟩ := encodeOfDecode ks w i h
    exact encode_selects i

/-! The worked encodings (R98). -/

/-- A byte that is no hex digit is dropped (40_input_normalizer.md R124). -/
theorem execPushHex_of_not_isHex {c : Byte} (h : isHex c = false) (s : State) :
    exec (.pushHex c) s = .next (s.complete .none) := by
  simp [exec, execPushHex, State.pushByte, h]

/-- Settles O1: the legal words by decode of encode, the illegal ones by the branch of `decode` they take. -/
theorem workedEncodings : Obligations.WorkedEncodings :=
  ⟨rfl, rfl, rfl, fun ks => decodeOfEncode ks (.pushHex 0x20#8) rfl, execPushHex_of_not_isHex rfl, rfl, rfl, rfl,
    fun _ => rfl, fun _ => rfl, fun _ => rfl, rfl⟩

end Sys2Proof
end

section
/-! The family of 40_input_normalizer.md. The hex digits, what one PUSH_HEX does to HEXCNT and CT, what a pushed text leaves
there, and the two commands that store no digit. -/

namespace Sys2Proof.Machine

/-! The hex digits and their values (R120, R121). -/

theorem isHex_iff (c : Byte) :
    isHex c = true ↔ (0x30 ≤ c.toNat ∧ c.toNat ≤ 0x39) ∨ (0x41 ≤ c.toNat ∧ c.toNat ≤ 0x46) ∨
      (0x61 ≤ c.toNat ∧ c.toNat ≤ 0x66) := by
  simp [isHex, or_assoc]

theorem hexval_decimal {c : Byte} (hle : c.toNat ≤ 0x39) : hexval c = c.toNat - 0x30 := if_pos hle

theorem hexval_upper {c : Byte} (hge : 0x41 ≤ c.toNat) (hle : c.toNat ≤ 0x46) : hexval c = c.toNat - 0x41 + 10 := by
  rw [hexval, if_neg (by omega), if_pos hle]

theorem hexval_lower {c : Byte} (hge : 0x61 ≤ c.toNat) : hexval c = c.toNat - 0x61 + 10 := by
  rw [hexval, if_neg (by omega), if_neg (by omega)]

/-- A lower case letter stands 0x20 above its upper case one. -/
theorem hexval_add_caseBit {c : Byte} (hge : 0x41 ≤ c.toNat) (hle : c.toNat ≤ 0x46) : hexval (c + 0x20#8) = hexval c := by
  have hlower : (c + 0x20#8).toNat = c.toNat + 0x20 := by
    rw [BitVec.toNat_add, BitVec.toNat_ofNat]
    omega
  rw [hexval_lower (by omega), hexval_upper hge hle]
  omega

theorem hexval_lt_sixteen {c : Byte} (h : isHex c = true) : hexval c < 16 := by
  obtain ⟨_, hle⟩ | ⟨hge, hle⟩ | ⟨hge, hle⟩ := (isHex_iff c).1 h
  · rw [hexval_decimal hle]
    omega
  · rw [hexval_upper hge hle]
    omega
  · rw [hexval_lower hge]
    omega

/-- Settles O13: each of the three ranges takes its own branch of `hexval`. -/
theorem hexDigitsAndValues : Obligations.HexDigitsAndValues := fun c =>
  ⟨isHex_iff c, fun _ hle => hexval_decimal hle, fun hge hle => ⟨hexval_upper hge hle, hexval_add_caseBit hge hle⟩,
    fun hge _ => hexval_lower hge, hexval_lt_sixteen⟩

/-! One digit (R124). -/

/-- A first digit replaces the byte: its value is the high nibble. -/
theorem toNat_nibbleInto_even {n : Nat} (hn : n % 2 = 0) (old : Byte) {v : Nat} (hv : v < 16) :
    (nibbleInto n old v).toNat = v * 16 := by
  rw [nibbleInto, if_pos hn, BitVec.toNat_ofNat]
  omega

/-- A second digit is added to the byte, at the byte's width (log 9). -/
theorem nibbleInto_odd {n : Nat} (hn : n % 2 = 1) (old : Byte) (v : Nat) :
    nibbleInto n old v = old + BitVec.ofNat 8 v := by
  rw [nibbleInto, if_neg (by omega), BitVec.ofNat_add, BitVec.ofNat_toNat, BitVec.setWidth_eq]

/-- Onto a byte whose low nibble is 0 the addition carries nowhere. -/
theorem toNat_nibbleInto_odd {n : Nat} (hn : n % 2 = 1) {old : Byte} (hold : old.toNat % 16 = 0) {v : Nat} (hv : v < 16) :
    (nibbleInto n old v).toNat = old.toNat + v := by
  have := old.isLt
  rw [nibbleInto, if_neg (by omega), BitVec.toNat_ofNat]
  omega

@[simp] theorem State.ctByte_complete (s : State) (e : ErrCode) (j : Nat) : (s.complete e).ctByte j = s.ctByte j := rfl

/-- CT after a digit: only the byte HEXCNT div 2 can change, and only below 1440 digits. -/
theorem ctByte_pushDigit (s : State) (n : BitVec 16) (v j : Nat) :
    (s.setInput n (ctAfterDigit s v)).ctByte j =
      if s.hexcnt.toNat < 1440 ∧ j = s.hexcnt.toNat / 2 then nibbleInto s.hexcnt.toNat (s.ctByte j) v else s.ctByte j := by
  have hread := read_ctAfterDigit s v (0x2000 + j)
  simp only [Nat.add_left_cancel_iff] at hread
  refine hread.trans ?_
  split
  · next h => rw [h.2]
  · rfl

theorem State.pushByte_of_isHex {c : Byte} (h : isHex c = true) (s : State) :
    s.pushByte c = s.setInput (countAfterDigit s.hexcnt) (ctAfterDigit s (hexval c)) := if_pos h

theorem State.pushByte_of_not_isHex {c : Byte} (h : isHex c = false) (s : State) : s.pushByte c = s := by
  simp [State.pushByte, h]

/-- PUSH_HEX changes at most HEXCNT and the buffers, and completes. -/
theorem exec_pushHex (c : Byte) (s : State) :
    exec (.pushHex c) s = .next
      { s with
        hexcnt := (s.pushByte c).hexcnt, mem := (s.pushByte c).mem, pending := none
        status := s.status.completed .none } := by
  cases h : isHex c
  · rw [State.pushByte_of_not_isHex h]
    exact execPushHex_of_not_isHex h s
  · simp only [exec, execPushHex, State.pushByte_of_isHex h]
    rfl

/-- Settles O14: a byte that is no digit is dropped, and a digit goes to its place in CT by the parity of HEXCNT. -/
theorem pushHexPacksDigit : Obligations.PushHexPacksDigit := by
  intro c s
  refine ⟨_, _, exec_pushHex c s, fun h => ?_, fun h => ?_⟩
  · rw [State.pushByte_of_not_isHex h]
    exact ⟨rfl, rfl⟩
  · have hread := read_ctAfterDigit s (hexval c)
    rw [State.pushByte_of_isHex h, State.setInput_hexcnt, State.setInput_mem]
    refine ⟨toNat_countAfterDigit _, fun hfull => if_neg (Nat.not_lt.2 hfull), fun hlt => ⟨fun a ha => ?_, fun heven => ?_,
      fun hodd => ?_⟩⟩
    · rw [hread, if_neg fun hat => ha hat.2]
    · rw [hread, if_pos ⟨hlt, rfl⟩]
      exact toNat_nibbleInto_even heven _ (hexval_lt_sixteen h)
    · rw [hread, if_pos ⟨hlt, rfl⟩]
      exact nibbleInto_odd hodd _ _

/-! CT is zero above the last digit. -/

/-- CT and PT do not overlap (10_state.md R36, R37). -/
theorem ctByte_storePt (s : State) {a : Nat} (bs : List Byte) (ha : ptBase ≤ a) {j : Nat} (hj : j < 720) :
    State.ctByte { s with mem := s.mem.store a bs } j = s.ctByte j := by
  simp only [ptBase] at ha
  refine (Memory.read_store s.mem a bs (ctBase + j)).trans (if_neg ?_)
  simp only [ctBase]
  omega

theorem ctByte_clearInput (s : State) {j : Nat} (hj : j < 720) :
    (s.setInput 0#16 (s.mem.store ctBase (zeroBytes inputLen))).ctByte j = 0#8 :=
  (Memory.read_store_zeroBytes s.mem ctBase inputLen (ctBase + j)).trans
    (if_pos ⟨Nat.le_add_right _ _, Nat.add_lt_add_left hj ctBase⟩)

/-- The digit after an even count leaves a zero low nibble; after an odd count it fills the last byte; the bytes above stay. -/
theorem inputInv_pushDigit {s : State} (hs : s.inputInv) {v : Nat} (hv : v < 16) :
    (s.setInput (countAfterDigit s.hexcnt) (ctAfterDigit s v)).inputInv := by
  intro j
  obtain ⟨habove, _⟩ := hs j
  have hj := j.isLt
  rw [State.setInput_hexcnt, toNat_countAfterDigit, ctByte_pushDigit]
  refine ⟨fun hle => ?_, fun hlast => ?_⟩
  · rw [if_neg (by omega)]
    exact habove (by omega)
  · rw [if_pos (by omega), toNat_nibbleInto_even (by omega) _ hv]
    omega

theorem inputInv_of_ctByte_eq_zero {s : State} (h : ∀ j, j < 720 → s.ctByte j = 0#8) : s.inputInv := fun j =>
  ⟨fun _ => h j.val j.isLt, fun _ => by rw [h j.val j.isLt]; rfl⟩

theorem opsKeep_inputInv : OpsKeep State.inputInv where
  storePt s a bs ha _ hs j := by
    rw [ctByte_storePt s bs ha j.isLt]
    exact hs j
  clearInput s _ := inputInv_of_ctByte_eq_zero fun _ => ctByte_clearInput s
  pushDigit _ _ hc hs := inputInv_pushDigit hs (hexval_lt_sixteen hc)

/-- Settles O58: only CLEAR_INPUT, PUSH_HEX and a reset write HEXCNT or CT; a digit goes right above those before it, and
the other two leave CT zero. -/
theorem stepKeepsInputInv : Obligations.StepKeepsInputInv := fun _ _ hs hstep =>
  step_keeps opsKeep_inputInv (fun _ _ => inputInv_of_ctByte_eq_zero fun _ _ => rfl) hs hstep

/-! A pushed text (R125). -/

/-- The value of digit i of a digit string, which past its end reads as '0' (0x30). -/
def digitAt (ds : List Byte) (i : Nat) : Nat := hexval (ds.getD i 0x30#8)

/-- Byte j of the packed digit string: digit 2j is the high nibble and digit 2j + 1 the low one (R125). -/
def packedByte (ds : List Byte) (j : Nat) : Nat := 16 * digitAt ds (2 * j) + digitAt ds (2 * j + 1)

theorem digitAt_of_lt {ds : List Byte} {i : Nat} (h : i < ds.length) : digitAt ds i = hexval (ds.getD i 0#8) := by
  simp [digitAt, h]

theorem digitAt_of_length_le {ds : List Byte} {i : Nat} (h : ds.length ≤ i) : digitAt ds i = 0 := by
  simp [digitAt, h, hexval]

theorem digitAt_append_of_lt {ds : List Byte} (c : Byte) {i : Nat} (h : i < ds.length) :
    digitAt (ds ++ [c]) i = digitAt ds i := by
  rw [digitAt, digitAt, List.getD_append _ _ _ _ h]

theorem digitAt_append_length (ds : List Byte) (c : Byte) : digitAt (ds ++ [c]) ds.length = hexval c := by
  simp [digitAt]

/-- HEXCNT and CT are what pushing the digits `ds` from HEXCNT = 0 leaves. -/
def State.HoldsDigits (s : State) (ds : List Byte) : Prop :=
  s.hexcnt.toNat = min ds.length 0xFFFF ∧ ∀ j, j < 720 → 2 * j < ds.length → (s.ctByte j).toNat = packedByte ds j

theorem State.HoldsDigits.complete {s : State} {ds : List Byte} (h : s.HoldsDigits ds) (e : ErrCode) :
    (s.complete e).HoldsDigits ds := h

/-- The new digit packs into byte `ds.length / 2` alone. -/
theorem holdsDigits_pushDigit {s : State} {ds : List Byte} (hs : s.HoldsDigits ds) {c : Byte} (hc : isHex c = true) :
    (s.pushByte c).HoldsDigits (ds ++ [c]) := by
  obtain ⟨hcount, hbytes⟩ := hs
  have hv := hexval_lt_sixteen hc
  rw [State.pushByte_of_isHex hc]
  refine ⟨?_, fun j hj hreached => ?_⟩
  · rw [State.setInput_hexcnt, toNat_countAfterDigit, hcount, List.length_append, List.length_singleton]
    omega
  · rw [List.length_append, List.length_singleton] at hreached
    rw [ctByte_pushDigit, packedByte]
    obtain hfirst | hsecond | hbelow : 2 * j = ds.length ∨ 2 * j + 1 = ds.length ∨ 2 * j + 1 < ds.length := by omega
    · rw [if_pos (by omega), toNat_nibbleInto_even (by omega) _ hv, hfirst, digitAt_append_length,
        digitAt_of_length_le (by simp)]
      omega
    · have hold : (s.ctByte j).toNat = 16 * digitAt ds (2 * j) := by
        rw [hbytes j hj (by omega), packedByte, digitAt_of_length_le (i := 2 * j + 1) (by omega), Nat.add_zero]
      rw [if_pos (by omega), toNat_nibbleInto_odd (by omega) (by omega) hv, hold, digitAt_append_of_lt c (by omega), hsecond,
        digitAt_append_length]
    · rw [if_neg (by omega), digitAt_append_of_lt c (by omega), digitAt_append_of_lt c hbelow]
      exact hbytes j hj (by omega)

theorem read_pushByte_outside (s : State) (c : Byte) {a : Nat} (ha : ¬ inCt a) : (s.pushByte c).mem.read a = s.mem.read a := by
  cases hc : isHex c
  · rw [State.pushByte_of_not_isHex hc]
  · rw [State.pushByte_of_isHex hc, State.setInput_mem, read_ctAfterDigit]
    simp only [inCt, ctBase, inputLen] at ha
    exact if_neg (by omega)

/-- Pushing a text appends its hex digits and drops its other bytes. -/
theorem execAll_pushHex (text : List Byte) {s : State} {ds : List Byte} (hs : s.HoldsDigits ds) :
    ∃ t, execAll (text.map .pushHex) s = .next t ∧ t.HoldsDigits (ds ++ text.filter isHex) ∧
      ∀ a, ¬ inCt a → t.mem.read a = s.mem.read a := by
  induction text generalizing s ds with
  | nil => exact ⟨s, rfl, by simpa using hs, fun _ _ => rfl⟩
  | cons c text ih =>
    have hpush : ((s.pushByte c).complete .none).HoldsDigits (ds ++ [c].filter isHex) := by
      cases hc : isHex c
      · rw [State.pushByte_of_not_isHex hc]
        simpa [hc] using hs.complete .none
      · simpa [hc] using (holdsDigits_pushDigit hs hc).complete .none
    obtain ⟨t, ht, hdigits, houtside⟩ := ih hpush
    refine ⟨t, ht, ?_, fun a ha => (houtside a ha).trans (read_pushByte_outside s c ha)⟩
    rwa [List.append_assoc, ← List.filter_append] at hdigits

/-- Settles O15, by induction on the text: from HEXCNT = 0 the state holds no digit, and each push keeps it holding the hex bytes
pushed so far. -/
theorem pushedTextIsNormalised : Obligations.PushedTextIsNormalised := by
  intro text s hzero
  have hempty : s.HoldsDigits [] := ⟨by rw [hzero]; rfl, fun j _ hreached => absurd hreached (Nat.not_lt_zero _)⟩
  obtain ⟨t, ht, ⟨hcount, hbytes⟩, houtside⟩ := execAll_pushHex text hempty
  rw [List.nil_append] at hcount hbytes
  refine ⟨t, ht, hcount, fun hlen j hj => ?_, by rw [hcount]; omega, houtside⟩
  rw [hbytes j hj (by omega), packedByte, digitAt_of_lt (by omega), digitAt_of_lt (by omega)]

/-! CLEAR_INPUT (R123). -/

/-- With any count but 1440 a DECRYPT with a legal slot reports InvalidInput (41_block_cryptor.md R146). -/
theorem exec_decrypt_invalidInput {s : State} {k : Byte} (hk : s.legalSlot k) (hcount : s.hexcnt.toNat ≠ 1440) :
    ∃ u, exec (.decrypt k) s = .next u ∧ u.status.err = .invalidInput := by
  obtain ⟨u, hu⟩ := exec_next (.decrypt k) s
  refine ⟨u, hu, ?_⟩
  obtain ⟨hle, _⟩ | ⟨_, p, hp, _⟩ | ⟨_, e, he, rfl⟩ := execDecrypt_cases hu
  · exact absurd hk (Nat.not_lt.2 hle)
  · obtain ⟨hfull, _⟩ := State.decryptWith_ok hp
    exact absurd hfull hcount
  · obtain ⟨_, rfl⟩ | ⟨hfull, _⟩ := State.decryptWith_error he
    · rfl
    · exact absurd hfull hcount

/-- Settles O12: the store of zero bytes covers CT exactly, and HEXCNT = 0 is not the length a decryption asks for. -/
theorem clearInputEmptiesInput : Obligations.ClearInputEmptiesInput := by
  refine ⟨rfl, fun s => ⟨s.mem.store ctBase (zeroBytes inputLen), rfl, Memory.read_store_zeroBytes s.mem ctBase inputLen,
    fun k t hk ht => ?_⟩⟩
  cases ht
  exact exec_decrypt_invalidInput hk (show 0 ≠ 1440 by decide)

/-! NOP (R122). -/

/-- NOP's opcode with a nonzero ARG (30_encoding.md R92, R95). -/
theorem decode_nop_argNotZero (ks : Nat) {x : Byte} (hx : x ≠ 0#8) :
    decode ks (cmd32 x 0x00#8) = .illegal .argNotZero := by
  simp [decode, noArg, hx]

/-- Settles O11: a NOP completes, a NOP while busy is a CMD write that the busy block drops, and ARG must be 0. -/
theorem nopOnlyCompletes : Obligations.NopOnlyCompletes := by
  refine ⟨rfl, fun ks x hx => decode_nop_argNotZero ks hx, fun _ => rfl, fun s hbusy =>
    ⟨{ busError := false, data := none }, ?_⟩, _, rfl, rfl⟩
  rw [busWrite_aligned (by decide)]
  exact congrArg (State.respond _) (writeReg_cmd_busy hbusy _)

end Sys2Proof.Machine
end

section
/-! The family of 41_block_cryptor.md. The big-endian conversions and the power function behind MODPOW and DECRYPT, what MODPOW
writes, and what a DECRYPT writes and reads. -/

namespace Sys2Proof.Machine

/-! The conversions byte by byte, from the least significant end (R140, R141). -/

@[simp] theorem intBE_nil : intBE [] = 0 := rfl

@[simp] theorem intBE_concat (bs : List Byte) (b : Byte) : intBE (bs ++ [b]) = intBE bs * 256 + b.toNat := by
  simp [intBE]

@[simp] theorem bytesBE_zero (x : Nat) : bytesBE x 0 = [] := rfl

theorem bytesBE_succ (x w : Nat) : bytesBE x (w + 1) = bytesBE (x / 256) w ++ [BitVec.ofNat 8 (x % 256)] := by
  have hinit (i : Nat) (hi : i < w) : x / 256 ^ (w - i) = x / 256 / 256 ^ (w - 1 - i) := by
    rw [Nat.div_div_eq_div_mul, ← pow_succ', show w - 1 - i + 1 = w - i by omega]
  simp +contextual [bytesBE, List.range_succ, hinit]

theorem two_pow_eight_mul (w : Nat) : 2 ^ (8 * w) = 256 ^ w := Nat.pow_mul 2 8 w

theorem toNat_lt_256_pow {w : Nat} (x : BitVec (8 * w)) : x.toNat < 256 ^ w := two_pow_eight_mul w ▸ x.isLt

/-- The width of a block and of a big-integer register (R144). -/
theorem two_pow_1024 : 2 ^ 1024 = 256 ^ 128 := by rw [← two_pow_eight_mul]

/-- The place values of R140. -/
theorem intBE_eq_sum (bs : List Byte) :
    intBE bs = ((List.range bs.length).map fun i => (bs.getD i 0#8).toNat * 256 ^ (bs.length - 1 - i)).sum := by
  induction bs using List.reverseRecOn with
  | nil => rfl
  | append_singleton bs b ih =>
    have hplace (i : Nat) (hi : i < bs.length) : ((bs ++ [b]).getD i 0#8).toNat * 256 ^ (bs.length - i) =
        (bs.getD i 0#8).toNat * 256 ^ (bs.length - 1 - i) * 256 := by
      rw [List.getD_append _ _ _ _ hi, Nat.mul_assoc, ← pow_succ, show bs.length - 1 - i + 1 = bs.length - i by omega]
    have hinit := List.map_congr_left fun i hi => hplace i (List.mem_range.1 hi)
    rw [intBE_concat, ih, List.length_append, List.length_singleton, List.range_succ, List.map_append, List.sum_append,
      Nat.add_sub_cancel, hinit, List.sum_map_mul_right]
    simp

theorem intBE_lt (bs : List Byte) : intBE bs < 256 ^ bs.length := by
  induction bs using List.reverseRecOn with
  | nil => simp
  | append_singleton bs b ih =>
    have := b.isLt
    rw [intBE_concat, List.length_append, List.length_singleton, Nat.pow_succ]
    omega

theorem bytesBE_intBE (bs : List Byte) : bytesBE (intBE bs) bs.length = bs := by
  induction bs using List.reverseRecOn with
  | nil => rfl
  | append_singleton bs b ih =>
    have hdiv : intBE (bs ++ [b]) / 256 = intBE bs := by rw [intBE_concat]; omega
    have hmod : intBE (bs ++ [b]) % 256 = b.toNat := by rw [intBE_concat]; omega
    rw [List.length_append, List.length_singleton, bytesBE_succ, hdiv, hmod, ih, BitVec.ofNat_toNat, BitVec.setWidth_eq]

/-- Of any number `bytesBE` keeps the low `w` bytes. -/
theorem intBE_bytesBE_eq_mod (x w : Nat) : intBE (bytesBE x w) = x % 256 ^ w := by
  induction w generalizing x with
  | zero => simp [Nat.mod_one]
  | succ w ih =>
    rw [bytesBE_succ, intBE_concat, ih, Nat.pow_succ', Nat.mod_mul, BitVec.toNat_ofNat]
    omega

theorem intBE_bytesBE {x w : Nat} (h : x < 256 ^ w) : intBE (bytesBE x w) = x := by
  rw [intBE_bytesBE_eq_mod, Nat.mod_eq_of_lt h]

theorem getD_bytesBE (x : Nat) {w i : Nat} (hi : i < w) :
    (bytesBE x w).getD i 0#8 = BitVec.ofNat 8 (x / 256 ^ (w - 1 - i) % 256) := by
  simp [bytesBE, hi]

/-- The padding on the left: the bytes above the value's own are zero. -/
theorem getD_bytesBE_eq_zero {x w m i : Nat} (hm : m ≤ w) (hx : x < 256 ^ (w - m)) (hi : i < m) :
    (bytesBE x w).getD i 0#8 = 0#8 := by
  have hplace : x < 256 ^ (w - 1 - i) := hx.trans_le (Nat.pow_le_pow_right (by decide) (by omega))
  rw [getD_bytesBE x (by omega), Nat.div_eq_of_lt hplace]

/-! The power function (R142). -/

/-- One bit of the exponent: its value, and the rest on the squared base. -/
theorem pow_eq_mul_sq_pow (b e : Nat) : b ^ e = b ^ (e % 2) * (b * b) ^ (e / 2) := by
  rw [← Nat.pow_two, ← Nat.pow_mul, ← Nat.pow_add, Nat.mod_add_div]

/-- The loop of R142 multiplies `base ^ e` into the result, given fuel for each bit of `e`. -/
theorem modpowLoop_eq {fuel result base e n : Nat} (he : e < 2 ^ fuel) (hr : result % n = result) :
    modpowLoop fuel result base e n = result * base ^ e % n := by
  induction fuel generalizing result base e with
  | zero =>
    obtain rfl : e = 0 := by omega
    simp [modpowLoop, hr]
  | succ fuel ih =>
    have hhalf : e / 2 < 2 ^ fuel := by omega
    rw [modpowLoop]
    split
    · next hzero => simp [hzero, hr]
    · split
      · next hodd =>
        rw [ih hhalf (Nat.mod_mod _ _), pow_eq_mul_sq_pow base e, hodd, Nat.pow_one, ← Nat.mul_assoc]
        exact (Nat.mod_modEq _ n).mul ((Nat.mod_modEq _ n).pow _)
      · next heven =>
        rw [ih hhalf hr, pow_eq_mul_sq_pow base e, show e % 2 = 0 by omega, Nat.pow_zero, Nat.one_mul]
        exact (Nat.ModEq.refl result).mul ((Nat.mod_modEq _ n).pow _)

theorem modpow_eq (b e n : Nat) : modpow b e n = b ^ e % n := by
  rw [modpow, modpowLoop_eq Nat.lt_log2_self (Nat.mod_mod 1 n)]
  exact ((Nat.mod_modEq 1 n).mul ((Nat.mod_modEq b n).pow e)).trans (by rw [Nat.one_mul])

theorem modpow_lt (b e : Nat) {n : Nat} (hn : 1 ≤ n) : modpow b e n < n := by
  rw [modpow_eq]
  exact Nat.mod_lt _ hn

/-- Settles O17: the loop has fuel for every bit of e, and starts from 1 and b modulo n. -/
theorem modpowIsPowerMod : Obligations.ModpowIsPowerMod := fun b e n _ => modpow_eq b e n

/-- Settles O16: each conversion takes off the last byte of the other, and a result of `modpow` is below its modulus. -/
theorem bigEndianConversions : Obligations.BigEndianConversions := by
  refine ⟨fun bs => ⟨intBE_eq_sum bs, ?_, bytesBE_intBE bs⟩, fun x w hx => ⟨length_bytesBE x w, fun i hi => ?_, ?_, ?_⟩,
    fun b e n hn => ?_⟩
  · rw [two_pow_eight_mul]
    exact intBE_lt bs
  · rw [getD_bytesBE x hi, BitVec.toNat_ofNat, Nat.mod_mod]
  · rw [two_pow_eight_mul] at hx
    exact intBE_bytesBE hx
  · intro m hm hsmall i hi
    rw [two_pow_eight_mul] at hsmall
    exact getD_bytesBE_eq_zero hm hsmall hi
  · rw [two_pow_eight_mul]
    exact (modpow_lt b e hn).trans (toNat_lt_256_pow (w := 128) n)

/-- Settles O19: the result is below n, so below 256^128. -/
theorem resultFitsBlock : Obligations.ResultFitsBlock := by
  intro b e n hn hle
  have hlt := modpow_lt b e hn
  rw [two_pow_1024] at hle
  refine ⟨hlt, length_bytesBE _ _, intBE_bytesBE (hlt.trans_le hle), fun hsmall i hi =>
    getD_bytesBE_eq_zero (m := 113) (by decide) ?_ hi⟩
  rwa [← two_pow_eight_mul]

/-- A key check fails at n = 0 and at n = 1, unless the length gate did before it (R146). -/
theorem decryptFn_of_modulus_le_one (hexcnt : Nat) (c : List Byte) {n : Nat} (e : Nat) (hn : n ≤ 1) :
    decryptFn hexcnt c n e = .error .invalidInput ∨ decryptFn hexcnt c n e = .error .crypto := by
  obtain ⟨_, h⟩ | ⟨_, _, h⟩ | ⟨_, hgt, _⟩ := decryptFn_cases hexcnt c n e
  · exact .inl h
  · exact .inr h
  · exact absurd hn (Nat.not_le.2 hgt)

/-! MODPOW (R145). -/

theorem exec_modpow_of_zero {s : State} (h : s.opMod.toNat = 0) :
    exec .modpow s = .next ((s.setResult 0#1024).complete .crypto) := if_pos h

theorem exec_modpow_of_ne_zero {s : State} (h : s.opMod.toNat ≠ 0) :
    exec .modpow s =
      .next ((s.setResult (BitVec.ofNat 1024 (modpow s.opBase.toNat s.opExp.toNat s.opMod.toNat))).complete .none) :=
  if_neg h

/-- The result fits OP_RES (R144). -/
theorem toNat_ofNat_modpow (b e : Nat) {n : Big} (hn : n.toNat ≠ 0) :
    (BitVec.ofNat 1024 (modpow b e n.toNat)).toNat = b ^ e % n.toNat := by
  have hlt := (modpow_lt b e (Nat.one_le_iff_ne_zero.2 hn)).trans n.isLt
  rw [BitVec.toNat_ofNat, Nat.mod_eq_of_lt hlt, modpow_eq]

/-- Settles O18: every value is `b ^ e % n` at its operands, and each command's check of n stands before its call. -/
theorem modpowCornerCases : Obligations.ModpowCornerCases := by
  refine ⟨fun b n _ => ?_, fun b n hn => ?_, fun b e => ?_, fun b e n _ _ => modpow_eq b e n, ?_, fun e n _ he => ?_,
    fun n _ => ?_, fun e n _ => ?_, fun b n _ => ?_, fun s hs => ⟨_, exec_modpow_of_zero hs, rfl⟩,
    fun hexcnt c n e hn => decryptFn_of_modulus_le_one hexcnt c e hn⟩ <;> rw [modpow_eq]
  · rw [Nat.pow_zero]
  · rw [Nat.pow_zero, Nat.mod_eq_of_lt hn]
  · exact Nat.mod_one _
  · decide
  · rw [Nat.zero_pow he, Nat.zero_mod]
  · rw [Nat.pow_zero]
  · rw [Nat.one_pow]
  · rw [Nat.pow_one]

/-- Settles O20: the check of OP_MOD has a branch for zero and one for the rest, where the result fits OP_RES. -/
theorem modpowCommandResult : Obligations.ModpowCommandResult :=
  ⟨rfl, fun _ hs => exec_modpow_of_zero hs,
    fun _ hs => ⟨_, toNat_ofNat_modpow _ _ hs, exec_modpow_of_ne_zero hs⟩, by rw [modpow_eq]; decide⟩

/-! What a DECRYPT reads and writes (R146, R147). -/

/-- Block b of blocks of equal length put together. -/
theorem take_drop_flatMap_range {α : Type} {f : Nat → List α} {w : Nat} (hf : ∀ b, (f b).length = w) {n b : Nat}
    (hb : b < n) : (((List.range n).flatMap f).drop (w * b)).take w = f b := by
  induction n with
  | zero => omega
  | succ n ih =>
    have hlen : ((List.range n).flatMap f).length = w * n := by simp [List.length_flatMap, hf, Nat.mul_comm]
    rw [List.range_succ, List.flatMap_append, List.flatMap_singleton]
    obtain rfl | hlt := Nat.eq_or_lt_of_le (Nat.le_of_lt_succ hb)
    · rw [List.drop_left' hlen, List.take_of_length_le (hf b).le]
    · have hend : w * b + w ≤ w * n := Nat.mul_succ w b ▸ Nat.mul_le_mul_left w hlt
      rw [List.drop_append_of_le_length (by omega), List.take_append_of_le_length (by rw [List.length_drop]; omega), ih hlt]

theorem length_decryptBlock (block : List Byte) (n e : Nat) : (decryptBlock block n e).length = 128 := length_bytesBE _ _

theorem State.decryptWith_eq_ok {s : State} {k : Byte} (hcount : s.hexcnt.toNat = 1440) (hn : 1 < s.modulusOf k) :
    ∃ p, s.decryptWith k = .ok p := by
  obtain ⟨hne, _⟩ | ⟨_, hle, _⟩ | ⟨_, _, hok⟩ := decryptFn_cases s.hexcnt.toNat s.ct (s.modulusOf k) (s.exponentOf k)
  · exact absurd hcount hne
  · exact absurd hn (Nat.not_lt.2 hle)
  · exact ⟨_, hok⟩

/-- Block b of the plaintext, from block b of CT. -/
theorem State.block_of_decryptWith {s : State} {k : Byte} {p : List Byte} (h : s.decryptWith k = .ok p) {b : Nat} (hb : b < 5) :
    (p.drop (128 * b)).take 128 =
      bytesBE (intBE (s.mem.load (0x2006 + 128 * b) 128) ^ s.exponentOf k % s.modulusOf k) 128 := by
  obtain ⟨_, _, _, rfl⟩ := State.decryptWith_ok h
  rw [take_drop_flatMap_range (fun _ => length_decryptBlock _ _ _) hb, decryptBlock, cipherBlock_ct s hb, modpow_eq, blockSize]

theorem State.legalSlot.lt {s : State} {k : Byte} (hk : s.legalSlot k) : k.toNat < s.cfg.keySlots := hk

theorem exec_decrypt_of_ok {s : State} {k : Byte} {p : List Byte} (hk : s.legalSlot k) (h : s.decryptWith k = .ok p) :
    exec (.decrypt k) s = .next ((s.commitPlaintext p).complete .none) := by
  rw [exec, execDecrypt, if_pos hk.lt, h]

theorem exec_decrypt_of_error {s : State} {k : Byte} {e : ErrCode} (hk : s.legalSlot k) (h : s.decryptWith k = .error e) :
    exec (.decrypt k) s = .next (s.failDecrypt.complete e) := by
  rw [exec, execDecrypt, if_pos hk.lt, h]
  rfl

theorem exec_decryptDecode_of_ok {s : State} {k : Byte} {p : List Byte} (hk : s.legalSlot k) (h : s.decryptWith k = .ok p) :
    exec (.decryptDecode k) s = .next ((s.commitPlaintext p).decodeCommitted.complete .none) := by
  rw [exec, execDecryptDecode, if_pos hk.lt, h]

theorem exec_decryptDecode_of_error {s : State} {k : Byte} {e : ErrCode} (hk : s.legalSlot k)
    (h : s.decryptWith k = .error e) : exec (.decryptDecode k) s = .next (s.failDecrypt.complete e) := by
  rw [exec, execDecryptDecode, if_pos hk.lt, h]
  rfl

/-- A plaintext goes to PT alone. -/
theorem Memory.read_store_outsidePt (m : Memory) {p : List Byte} (hp : p.length = 640) {a : Nat} (ha : ¬ inPt a) :
    (m.store ptBase p).read a = m.read a := by
  rw [Memory.read_store, hp]
  exact if_neg ha

/-- Settles O21: the five blocks of the plaintext stored over PT, which they cover exactly. -/
theorem decryptWritesPlaintext : Obligations.DecryptWritesPlaintext := by
  intro s k hk hcount hn
  obtain ⟨p, hp⟩ := State.decryptWith_eq_ok hcount hn
  obtain ⟨_, _, hlen, _⟩ := State.decryptWith_ok hp
  refine ⟨s.mem.store ptBase p, exec_decrypt_of_ok hk hp, fun b hb => ?_, fun a ha => s.mem.read_store_outsidePt hlen ha⟩
  rw [← State.block_of_decryptWith hp hb]
  exact Memory.load_store_part _ _ _ _ _ (by omega)

/-! No ciphertext in PT after a failure (R148). -/

theorem State.decryptWith_error_ne_none {s : State} {k : Byte} {e : ErrCode} (h : s.decryptWith k = .error e) :
    e ≠ .none := by
  obtain ⟨_, rfl⟩ | ⟨_, _, rfl⟩ := State.decryptWith_error h <;> decide

theorem State.ptByte_failDecrypt (s : State) {i : Nat} (hi : i < 640) : s.failDecrypt.ptByte i = 0#8 :=
  (Memory.read_store_zeroBytes s.mem ptBase ptSize (ptBase + i)).trans
    (if_pos ⟨Nat.le_add_right _ _, Nat.add_lt_add_left hi ptBase⟩)

/-- Settles O23: a success sets PT_LEN to 640, and a failure of either cause stores zero bytes over PT. -/
theorem noCiphertextSubstituted : Obligations.NoCiphertextSubstituted := by
  intro s k hk
  cases h : s.decryptWith k with
  | ok p => exact ⟨_, exec_decrypt_of_ok hk h, .inl ⟨rfl, rfl⟩⟩
  | error e =>
    exact ⟨_, exec_decrypt_of_error hk h,
      .inr ⟨State.decryptWith_error_ne_none h, rfl, fun i hi => s.ptByte_failDecrypt hi⟩⟩

/-! Blocks (R149). -/

theorem Memory.load_eq_load_iff {m m' : Memory} {a n : Nat} :
    m.load a n = m'.load a n ↔ ∀ i, i < n → m.read (a + i) = m'.read (a + i) := by
  simp [Memory.load]

/-- Settles O24: both plaintexts hold in block b the same power of the same block of CT. -/
theorem blocksAreIndependent : Obligations.BlocksAreIndependent := by
  intro s s' k k' b hb hk hk' hcount hcount' hmod hexp hn hct
  obtain ⟨m, hexec, hblock, _⟩ := decryptWritesPlaintext s k hk hcount hn
  obtain ⟨m', hexec', hblock', _⟩ := decryptWritesPlaintext s' k' hk' hcount' (hmod ▸ hn)
  have hcipher : s.mem.load (0x2006 + 128 * b) 128 = s'.mem.load (0x2006 + 128 * b) 128 := by
    refine Memory.load_eq_load_iff.2 fun i hi => ?_
    have hbyte := hct i hi
    simp only [State.ctByte, ctBase] at hbyte
    rwa [show 0x2006 + 128 * b + i = 0x2000 + (6 + 128 * b + i) by omega]
  have hplain : m.load (0x2400 + 128 * b) 128 = m'.load (0x2400 + 128 * b) 128 := by
    rw [hblock b hb, hblock' b hb, hcipher, hmod, hexp]
  refine ⟨_, _, hexec, hexec', fun i hi => ?_⟩
  simp only [State.ptByte, ptBase, ← Nat.add_assoc]
  exact Memory.load_eq_load_iff.1 hplain i hi

/-! Header and trailer (R150). -/

/-- The decryption reads no byte of the ciphertext outside its five blocks. -/
theorem decryptFn_congr_blocks {c d : List Byte} (h : ∀ b, b < 5 → cipherBlock c b = cipherBlock d b) (hexcnt n e : Nat) :
    decryptFn hexcnt c n e = decryptFn hexcnt d n e := by
  have hplain : ((List.range 5).flatMap fun b => decryptBlock (cipherBlock c b) n e) =
      (List.range 5).flatMap fun b => decryptBlock (cipherBlock d b) n e :=
    List.flatMap_congr fun b hb => by rw [h b (List.mem_range.1 hb)]
  rw [decryptFn, decryptFn, blockCount, hplain]

theorem State.decryptWith_of_blocks_eq {s : State} {m : Memory} (k : Byte)
    (h : ∀ a, 0x2006 ≤ a → a < 0x2286 → m.read a = s.mem.read a) :
    { s with mem := m }.decryptWith k = s.decryptWith k := by
  refine decryptFn_congr_blocks (fun b hb => ?_) _ _ _
  rw [cipherBlock_ct _ hb, cipherBlock_ct _ hb]
  exact Memory.load_eq_load_iff.2 fun i hi => h _ (by omega) (by omega)

theorem State.pt_commitPlaintext (s : State) {p : List Byte} (hp : p.length = 640) : (s.commitPlaintext p).pt = p := by
  have hload := s.mem.load_store_same ptBase p
  rwa [hp] at hload

/-- The decode after a decryption is of the plaintext just written (43_sequencing.md R210). -/
theorem State.decodeCommitted_commitPlaintext (s : State) {p : List Byte} (hp : p.length = 640) :
    (s.commitPlaintext p).decodeCommitted = (s.commitPlaintext p).commitRecord fun i => slotResult s.ft[i.val] p := by
  rw [State.decodeCommitted, s.pt_commitPlaintext hp]
  rfl

/-- A decrypting command stores one and the same plaintext, of zero bytes if it failed, over any buffers it decrypts alike. -/
theorem exec_decrypting_withMem {s : State} {m : Memory} {k : Byte} {i : Instr} (hi : i = .decrypt k ∨ i = .decryptDecode k)
    (hk : s.legalSlot k) (hsame : { s with mem := m }.decryptWith k = s.decryptWith k) :
    ∃ t p, p.length = 640 ∧ t.mem = s.mem.store ptBase p ∧ exec i s = .next t ∧
      exec i { s with mem := m } = .next { t with mem := m.store ptBase p } := by
  cases h : s.decryptWith k with
  | error e =>
    rw [h] at hsame
    obtain rfl | rfl := hi
    · exact ⟨_, zeroBytes ptSize, length_zeroBytes _, rfl, exec_decrypt_of_error hk h, exec_decrypt_of_error hk hsame⟩
    · exact ⟨_, zeroBytes ptSize, length_zeroBytes _, rfl, exec_decryptDecode_of_error hk h,
        exec_decryptDecode_of_error hk hsame⟩
  | ok p =>
    rw [h] at hsame
    obtain ⟨_, _, hlen, _⟩ := State.decryptWith_ok h
    obtain rfl | rfl := hi
    · exact ⟨_, p, hlen, rfl, exec_decrypt_of_ok hk h, exec_decrypt_of_ok hk hsame⟩
    · have hexec := exec_decryptDecode_of_ok hk h
      have hexec' := exec_decryptDecode_of_ok (s := { s with mem := m }) hk hsame
      rw [State.decodeCommitted_commitPlaintext _ hlen] at hexec hexec'
      exact ⟨_, p, hlen, rfl, hexec, hexec'⟩

/-- Settles O25: the five blocks of CT decide the plaintext, the plaintext decides the record, and PT and CT do not overlap. -/
theorem headerAndTrailerHaveNoEffect : Obligations.HeaderAndTrailerHaveNoEffect := by
  intro s m k i hi hk hread
  obtain ⟨t, p, hlen, hmem, hexec, hexec'⟩ := exec_decrypting_withMem hi hk (State.decryptWith_of_blocks_eq k hread)
  refine ⟨t, _, hexec, hexec', rfl, rfl, fun j hj => ?_, rfl, rfl, rfl, rfl, fun j hj => ?_⟩
  · have hin : ptBase ≤ ptBase + j ∧ ptBase + j < ptBase + p.length := by omega
    simp only [State.ptByte, hmem, Memory.read_store, if_pos hin]
  · exact ctByte_storePt { s with mem := m } p (Nat.le_refl _) hj

end Sys2Proof.Machine
end

section
/-! The family of 42_record_decoder.md. The raw bytes of a slot, the checks of each KIND, what a decode writes to a slot, and the
statements about the two decoding commands, which both commit by `State.decodeCommitted`. -/

namespace Sys2Proof.Machine

/-! Trailing fill (R174). `trimFill` is the library's `List.rdropWhile` of `isFill`, by definition. -/

theorem isFill_iff (b : Byte) : isFill b = true ↔ b = 0x20#8 ∨ b = 0x00#8 := by
  simp [isFill]

theorem trimFill_concat_of_fill {b : Byte} (hb : isFill b = true) (bs : List Byte) : trimFill (bs ++ [b]) = trimFill bs :=
  List.rdropWhile_concat_pos isFill bs b hb

theorem trimFill_concat_of_not_fill {b : Byte} (hb : ¬ isFill b = true) (bs : List Byte) :
    trimFill (bs ++ [b]) = bs ++ [b] :=
  List.rdropWhile_concat_neg isFill bs b hb

/-- Settles O26: the last byte decides between the two branches of the equation. -/
theorem trimFillEquation : Obligations.TrimFillEquation := by
  refine fun bs => ⟨?_, bs.rtakeWhile isFill, List.rdropWhile_append_rtakeWhile.symm, fun b hb =>
    (isFill_iff b).1 (List.mem_rtakeWhile_imp hb)⟩
  obtain rfl | ⟨init, b, rfl⟩ := List.eq_nil_or_concat bs
  · rfl
  · have hlast : (init ++ [b]).getD ((init ++ [b]).length - 1) 0xFF#8 = b := by simp
    have hinit : (init ++ [b]).take ((init ++ [b]).length - 1) = init := by simp
    rw [List.concat_eq_append, hlast, hinit]
    by_cases hb : isFill b = true
    · rw [if_pos ⟨by simp, (isFill_iff b).1 hb⟩, trimFill_concat_of_fill hb]
    · rw [if_neg fun h => hb ((isFill_iff b).2 h.2), trimFill_concat_of_not_fill hb]

/-! The window and the raw bytes (R175, R176). -/

theorem getElem?_fieldWindow (f : FieldEntry) (p : List Byte) (j : Nat) :
    (fieldWindow f p)[j]? = if j < f.width.toNat then p[f.offset.toNat + j]? else none := by
  rw [fieldWindow, List.getElem?_take, List.getElem?_drop]

theorem rawField_fixed {f : FieldEntry} (h : f.rule = false) (p : List Byte) :
    rawField f p = trimFill (fieldWindow f p) := by
  simp [rawField, h]

theorem rawField_delim {f : FieldEntry} (h : f.rule = true) (p : List Byte) :
    rawField f p = delimScan f.term (fieldWindow f p) := by
  simp [rawField, h]

/-- The scan gives the bytes before the window's first terminator, or all of them. -/
theorem delimScan_spec (term : Byte) (window : List Byte) :
    ∃ j, j ≤ window.length ∧ delimScan term window = window.take j ∧ (∀ x, x < j → window[x]? ≠ some term) ∧
      (j < window.length → window[j]? = some term) := by
  induction window with
  | nil => exact ⟨0, Nat.le_refl _, rfl, fun x hx => absurd hx (Nat.not_lt_zero x), fun h => absurd h (Nat.lt_irrefl 0)⟩
  | cons b window ih =>
    by_cases hb : b = term
    · exact ⟨0, Nat.zero_le _, by simp [delimScan, hb], fun x hx => absurd hx (Nat.not_lt_zero x), fun _ => by simp [hb]⟩
    · obtain ⟨j, hle, hscan, hbefore, hat⟩ := ih
      refine ⟨j + 1, Nat.succ_le_succ hle, ?_, fun x hx => ?_, fun hj => hat (Nat.lt_of_succ_lt_succ hj)⟩
      · rw [List.take_succ_cons, ← hscan]
        simp [delimScan, hb]
      · cases x with
        | zero => simpa using hb
        | succ x => exact hbefore x (Nat.lt_of_succ_lt_succ hx)

/-- Settles O27: the scan stops inside the window at the first terminator, or at the window's end. -/
theorem rawBytesByRule : Obligations.RawBytesByRule := by
  refine fun f p => ⟨fun h => ⟨rawField_fixed h p, fun x => ?_⟩, fun h => ?_⟩
  · rw [rawField_fixed h, rawField_fixed (f := { f with term := x }) h]
    rfl
  · obtain ⟨j, hle, hscan, hbefore, hat⟩ := delimScan_spec f.term (fieldWindow f p)
    have hlen : (fieldWindow f p).length = min f.width.toNat (p.length - f.offset.toNat) := by
      simp [fieldWindow]
    rw [hlen] at hle hat
    refine ⟨j, by omega, ?_, fun x hx => ?_, fun hj hin => ?_⟩
    · rw [rawField_delim h, hscan, fieldWindow, List.take_take, min_eq_left (by omega)]
    · have hne := hbefore x hx
      rwa [getElem?_fieldWindow, if_pos (by omega)] at hne
    · have hterm := hat (by omega)
      rwa [getElem?_fieldWindow, if_pos hj] at hterm

/-! The check of each KIND (R177, R178, R180). -/

@[simp] theorem kindOk_text (raw : List Byte) : kindOk 0#2 raw = textOk raw := rfl
@[simp] theorem kindOk_numeric (raw : List Byte) : kindOk 1#2 raw = numericOk raw := rfl
@[simp] theorem kindOk_date (raw : List Byte) : kindOk 2#2 raw = dateOk raw := rfl

theorem isDigit_iff (b : Byte) : isDigit b = true ↔ 0x30 ≤ b.toNat ∧ b.toNat ≤ 0x39 := by
  simp [isDigit]

theorem textOk_iff (raw : List Byte) : textOk raw = true ↔ ∀ b ∈ raw, 0x20 ≤ b.toNat ∧ b.toNat ≤ 0x7E := by
  simp [textOk, isPrintable]

theorem numericOk_iff (raw : List Byte) :
    numericOk raw = true ↔ 1 ≤ raw.length ∧ ∀ b ∈ raw, 0x30 ≤ b.toNat ∧ b.toNat ≤ 0x39 := by
  simp only [numericOk, Bool.and_eq_true, decide_eq_true_eq, List.all_eq_true, isDigit_iff]

theorem dateOk_iff (raw : List Byte) :
    dateOk raw = true ↔ (raw.length = 8 ∧ ∀ b ∈ raw, isDigit b = true) ∧ realDay (dateParts raw) = true := by
  simp only [dateOk, Bool.and_eq_true, decide_eq_true_eq, List.all_eq_true]

/-- A slot keeps its raw bytes as they are, and only if they pass its kind's check (R181). -/
theorem extract_value {f : FieldEntry} {p v : List Byte} (h : extract f p = .value v) :
    v = rawField f p ∧ kindOk f.kind v = true := by
  simp only [extract] at h
  split at h
  · next hok =>
    cases h
    exact ⟨rfl, (Bool.and_eq_true _ _ ▸ hok).2⟩
  · cases h

/-- Settles O28: both checks ask for a range of every byte, and only NUMERIC asks for a byte. -/
theorem textAndNumericChecks : Obligations.TextAndNumericChecks := fun raw =>
  ⟨textOk_iff raw, numericOk_iff raw, rfl, fun _ _ _ h => (extract_value h).1⟩

/-! Dates (R179, R180, R189). -/

/-- The ASCII digit of a value below 10. -/
def digitByte (d : Nat) : Byte := BitVec.ofNat 8 (0x30 + d)

theorem toNat_digitByte {d : Nat} (hd : d ≤ 9) : (digitByte d).toNat = 0x30 + d := by
  rw [digitByte, BitVec.toNat_ofNat]
  omega

theorem isDigit_digitByte {d : Nat} (hd : d ≤ 9) : isDigit (digitByte d) = true := by
  rw [isDigit_iff, toNat_digitByte hd]
  omega

/-- Every ASCII digit is the digit of a value below 10. -/
theorem exists_digitByte_of_isDigit {b : Byte} (h : isDigit b = true) : ∃ d, d ≤ 9 ∧ digitByte d = b := by
  obtain ⟨hge, hle⟩ := (isDigit_iff b).1 h
  have hd : b.toNat - 0x30 ≤ 9 := by omega
  refine ⟨b.toNat - 0x30, hd, BitVec.eq_of_toNat_eq ?_⟩
  rw [toNat_digitByte hd]
  omega

theorem exists_map_digitByte {raw : List Byte} (h : ∀ b ∈ raw, isDigit b = true) :
    ∃ ds : List Nat, (∀ d ∈ ds, d ≤ 9) ∧ ds.map digitByte = raw := by
  induction raw with
  | nil => exact ⟨[], by simp, rfl⟩
  | cons b raw ih =>
    obtain ⟨d, hd, rfl⟩ := exists_digitByte_of_isDigit (h b List.mem_cons_self)
    obtain ⟨ds, hds, rfl⟩ := ih fun c hc => h c (List.mem_cons_of_mem _ hc)
    exact ⟨d :: ds, List.forall_mem_cons.2 ⟨hd, hds⟩, rfl⟩

theorem decimal_concat_digitByte (bs : List Byte) {d : Nat} (hd : d ≤ 9) :
    decimal (bs ++ [digitByte d]) = decimal bs * 10 + d := by
  simp [decimal, toNat_digitByte hd]

theorem decimal_two {a b : Nat} (ha : a ≤ 9) (hb : b ≤ 9) : decimal [digitByte a, digitByte b] = 10 * a + b := by
  have h1 := decimal_concat_digitByte [] ha
  have h2 := decimal_concat_digitByte [digitByte a] hb
  simp only [List.nil_append, List.cons_append] at h1 h2
  rw [h2, h1, show decimal [] = 0 from rfl]
  omega

theorem decimal_four {a b c d : Nat} (ha : a ≤ 9) (hb : b ≤ 9) (hc : c ≤ 9) (hd : d ≤ 9) :
    decimal [digitByte a, digitByte b, digitByte c, digitByte d] = 1000 * a + 100 * b + 10 * c + d := by
  have h3 := decimal_concat_digitByte [digitByte a, digitByte b] hc
  have h4 := decimal_concat_digitByte [digitByte a, digitByte b, digitByte c] hd
  simp only [List.cons_append, List.nil_append] at h3 h4
  rw [h4, h3, decimal_two ha hb]
  omega

theorem isLeapYear_iff (y : Nat) : isLeapYear y = true ↔ (y % 4 = 0 ∧ y % 100 ≠ 0) ∨ y % 400 = 0 := by
  simp [isLeapYear]

theorem daysInMonth_eq (y m : Nat) (hge : 1 ≤ m) (hle : m ≤ 12) :
    daysInMonth y m = if m ∈ [1, 3, 5, 7, 8, 10, 12] then 31 else if m ∈ [4, 6, 9, 11] then 30
      else if (y % 4 = 0 ∧ y % 100 ≠ 0) ∨ y % 400 = 0 then 29 else 28 := by
  simp only [← isLeapYear_iff]
  interval_cases m <;> rfl

theorem realDay_iff (y m d : Nat) :
    realDay (y, m, d) = true ↔ 1 ≤ m ∧ m ≤ 12 ∧ 1 ≤ d ∧ d ≤ daysInMonth y m := by
  simp [realDay, and_assoc]

/-- Eight digits are a date exactly when they name a day. -/
theorem dateOk_digits {y1 y2 y3 y4 m1 m2 d1 d2 : Nat} (h : ∀ d ∈ [y1, y2, y3, y4, m1, m2, d1, d2], d ≤ 9) :
    dateOk ([y1, y2, y3, y4, m1, m2, d1, d2].map digitByte) = true ↔
      1 ≤ 10 * m1 + m2 ∧ 10 * m1 + m2 ≤ 12 ∧ 1 ≤ 10 * d1 + d2 ∧
        10 * d1 + d2 ≤ daysInMonth (1000 * y1 + 100 * y2 + 10 * y3 + y4) (10 * m1 + m2) := by
  have hdigits : ∀ b ∈ [y1, y2, y3, y4, m1, m2, d1, d2].map digitByte, isDigit b = true :=
    List.forall_mem_map.2 fun d hd => isDigit_digitByte (h d hd)
  rw [dateOk_iff, and_iff_right ⟨rfl, hdigits⟩, ← realDay_iff]
  simp only [List.forall_mem_cons] at h
  obtain ⟨hy1, hy2, hy3, hy4, hm1, hm2, hd1, hd2, _⟩ := h
  rw [← decimal_four hy1 hy2 hy3 hy4, ← decimal_two hm1 hm2, ← decimal_two hd1 hd2]
  rfl

/-- Settles O29: a string of eight digits is read off digit by digit. -/
theorem dateCheckIsTheCalendar : Obligations.DateCheckIsTheCalendar := by
  refine ⟨daysInMonth_eq, fun raw => ⟨fun h => ?_, ?_⟩, fun f p v hkind hv => ?_⟩
  · obtain ⟨⟨hlen, hdigits⟩, _⟩ := (dateOk_iff raw).1 h
    obtain ⟨ds, hds, rfl⟩ := exists_map_digitByte hdigits
    match ds, (List.length_map digitByte).symm.trans hlen with
    | [y1, y2, y3, y4, m1, m2, d1, d2], _ =>
      have hday := (dateOk_digits hds).1 h
      simp only [List.forall_mem_cons] at hds
      obtain ⟨hy1, hy2, hy3, hy4, hm1, hm2, hd1, hd2, _⟩ := hds
      exact ⟨y1, y2, y3, y4, m1, m2, d1, d2, hy1, hy2, hy3, hy4, hm1, hm2, hd1, hd2, rfl, hday⟩
  · rintro ⟨y1, y2, y3, y4, m1, m2, d1, d2, hy1, hy2, hy3, hy4, hm1, hm2, hd1, hd2, rfl, hday⟩
    exact (dateOk_digits (by simp [hy1, hy2, hy3, hy4, hm1, hm2, hd1, hd2])).2 hday
  · obtain ⟨hraw, hok⟩ := extract_value hv
    rw [hkind, kindOk_date] at hok
    obtain ⟨⟨hlen, _⟩, _⟩ := (dateOk_iff v).1 hok
    exact ⟨hraw, hlen⟩

/-! What a decode writes (R185, R186). -/

/-- On a 640-byte plaintext DECODE commits what the decode part of DECRYPT_DECODE does. -/
theorem exec_decode_of_length {s : State} (h : s.ptLen.toNat = 640) :
    exec .decode s = .next (s.decodeCommitted.complete .none) := by
  obtain ⟨t, ht⟩ := exec_next .decode s
  obtain ⟨_, rfl⟩ | ⟨hne, _⟩ := execDecode_cases ht
  · exact ht
  · exact absurd h hne

@[simp] theorem State.decodeCommitted_fieldValid (s : State) (i : Fin 32) :
    s.decodeCommitted.fieldValid[i.val] = (slotResult s.ft[i.val] s.pt).isValue := by
  simp [State.decodeCommitted]

@[simp] theorem State.decodeCommitted_fv (s : State) (i : Fin 32) :
    s.decodeCommitted.fv[i.val] = (slotResult s.ft[i.val] s.pt).fieldValue := by
  simp [State.decodeCommitted]

theorem completeFn_iff (ft : Vector FieldEntry 32) (r : Fin 32 → SlotResult) :
    completeFn ft r = true ↔
      (∀ i : Fin 32, ft[i.val].en = true → (r i).isValue = true) ∧
      (∀ f, 1 ≤ f → f ≤ 18 → ∃ i : Fin 32, ft[i.val].en = true ∧ ft[i.val].fieldId.toNat = f) := by
  have hslots : (List.finRange 32).all (fun i => !ft[i.val].en || (r i).isValue) = true ↔
      ∀ i : Fin 32, ft[i.val].en = true → (r i).isValue = true := by
    simp [Bool.or_eq_true, or_iff_not_imp_left]
  have hfields : ((List.range 18).all fun f =>
      (List.finRange 32).any fun i => ft[i.val].en && decide (ft[i.val].fieldId.toNat = f + 1)) = true ↔
      ∀ f, 1 ≤ f → f ≤ 18 → ∃ i : Fin 32, ft[i.val].en = true ∧ ft[i.val].fieldId.toNat = f := by
    simp only [List.all_eq_true, List.mem_range, List.any_eq_true, List.mem_finRange, true_and, Bool.and_eq_true,
      decide_eq_true_eq]
    refine ⟨fun h f hge hle => ?_, fun h f hf => h (f + 1) (by omega) (by omega)⟩
    have hf := h (f - 1) (by omega)
    rwa [Nat.sub_add_cancel hge] at hf
  rw [completeFn, Bool.and_eq_true, hslots, hfields]

/-- Settles O30: the record of R186 slot by slot; the commit writes the record outputs and the completion STATUS and PENDING. -/
theorem decodeFillsRecord : Obligations.DecodeFillsRecord := by
  refine fun s hlen => ⟨_, s.decodeCommitted.fieldValid, s.decodeCommitted.fv, exec_decode_of_length hlen,
    fun i v hv => ?_, fun i hnone => ?_⟩
  · obtain ⟨_, _, _, _, hle⟩ := slotResult_value hv
    rw [State.decodeCommitted_fieldValid, State.decodeCommitted_fv, hv]
    exact ⟨rfl, hle, valueField_spec hle⟩
  · rw [State.decodeCommitted_fieldValid, State.decodeCommitted_fv]
    exact SlotResult.of_no_value hnone

/-- A decoding command that succeeds decodes PT as it then stands by the field table of the state before it. -/
theorem exec_decoding {s : State} {c : Instr}
    (h : (c = .decode ∧ s.ptLen.toNat = 640) ∨
      ∃ k, c = .decryptDecode k ∧ s.legalSlot k ∧ s.hexcnt.toNat = 1440 ∧ 1 < s.modulusOf k) :
    ∃ u : State, u.ft = s.ft ∧ exec c s = .next (u.decodeCommitted.complete .none) := by
  obtain ⟨rfl, hlen⟩ | ⟨k, rfl, hk, hcount, hn⟩ := h
  · exact ⟨s, rfl, exec_decode_of_length hlen⟩
  · obtain ⟨p, hp⟩ := State.decryptWith_eq_ok hcount hn
    exact ⟨s.commitPlaintext p, rfl, exec_decryptDecode_of_ok hk hp⟩

theorem State.decodeCommitted_recComplete_iff (s : State) :
    s.decodeCommitted.recComplete = true ↔
      (∀ i : Fin 32, s.ft[i.val].en = true → s.decodeCommitted.fieldValid[i.val] = true) ∧
      (∀ f, 1 ≤ f → f ≤ 18 → ∃ i : Fin 32, s.ft[i.val].en = true ∧ s.ft[i.val].fieldId.toNat = f) := by
  simp only [State.decodeCommitted_fieldValid]
  exact completeFn_iff s.ft _

/-- Settles O32: COMPLETE is `complete_fn`, and with no enabled slot FIELD_ID 1 has none. -/
theorem completeFlagExactly : Obligations.CompleteFlagExactly := by
  intro s c h
  obtain ⟨u, hft, hexec⟩ := exec_decoding h
  have hcomplete := u.decodeCommitted_recComplete_iff
  rw [hft] at hcomplete
  refine ⟨_, hexec, rfl, hcomplete, fun hnone => Bool.eq_false_iff.2 fun hc => ?_⟩
  obtain ⟨_, hfields⟩ := hcomplete.1 hc
  obtain ⟨i, hen, _⟩ := hfields 1 (by decide) (by decide)
  rw [hnone i] at hen
  cases hen

/-! Slots (R171, R188). -/

/-- The window of a slot in two plaintexts that agree on it. -/
theorem fieldWindow_pt_congr {s s' : State} {f : FieldEntry}
    (h : ∀ x, f.offset.toNat ≤ x → x < f.offset.toNat + f.width.toNat → s.ptByte x = s'.ptByte x) :
    fieldWindow f s.pt = fieldWindow f s'.pt := by
  refine List.ext_getElem? fun j => ?_
  rw [getElem?_fieldWindow, getElem?_fieldWindow]
  split
  · next hj => rw [State.getElem?_pt, State.getElem?_pt, h _ (by omega) (by omega)]
  · rfl

/-- Settles O34: a slot's outputs are a function of its result, and that of its entry and its window. -/
theorem slotsAreIndependent : Obligations.SlotsAreIndependent := by
  intro s s' i hlen hlen' hft hwindow
  have hresult : slotResult s.ft[i.val] s.pt = slotResult s'.ft[i.val] s'.pt := by
    rw [← hft]
    exact slotResult_congr (fieldWindow_pt_congr hwindow)
  refine ⟨_, _, exec_decode_of_length hlen, exec_decode_of_length hlen', ?_, ?_⟩
  · rw [State.complete_fv, State.complete_fv, State.decodeCommitted_fv, State.decodeCommitted_fv, hresult]
  · rw [State.complete_fieldValid, State.complete_fieldValid, State.decodeCommitted_fieldValid,
      State.decodeCommitted_fieldValid, hresult]

/-! No fabricated data (R187). -/

/-- A byte of a slot's raw bytes is the byte of PT at its own place in the window. -/
theorem getElem?_rawField_pt {s : State} {f : FieldEntry} {j : Nat} {b : Byte} (h : (rawField f s.pt)[j]? = some b) :
    f.offset.toNat + j < 640 ∧ b = s.ptByte (f.offset.toNat + j) := by
  obtain ⟨hj, rfl⟩ := List.getElem?_eq_some_iff.1 h
  have hwindow := List.prefix_iff_getElem?.1 (rawField_prefix f s.pt) j hj
  rw [getElem?_fieldWindow] at hwindow
  split at hwindow
  · rw [State.getElem?_pt] at hwindow
    split at hwindow
    · next hin => exact ⟨hin, (Option.some.inj hwindow).symm⟩
    · cases hwindow
  · cases hwindow

theorem State.decodeCommitted_data (s : State) (i : Fin 32) (j : Fin 64) :
    s.decodeCommitted.fv[i.val].data[j.val] = 0#8 ∨
      (s.ft[i.val].offset.toNat + j.val < 640 ∧
        s.decodeCommitted.fv[i.val].data[j.val] = s.ptByte (s.ft[i.val].offset.toNat + j.val)) := by
  rw [State.decodeCommitted_fv]
  cases hr : slotResult s.ft[i.val] s.pt with
  | value v =>
    obtain ⟨_, _, rfl, _, hle⟩ := slotResult_value hr
    obtain ⟨_, hdata⟩ := valueField_spec hle
    rw [SlotResult.fieldValue, hdata, List.getD_eq_getElem?_getD]
    cases hb : (rawField s.ft[i.val] s.pt)[j.val]? with
    | none => exact .inl rfl
    | some b => exact .inr (getElem?_rawField_pt hb)
  | fieldError | disabled => exact .inl (FieldValue.data_sentinel j)

theorem State.clearRecord_data (s : State) (i : Fin 32) (j : Fin 64) : s.clearRecord.fv[i.val].data[j.val] = 0#8 := by
  simp [FieldValue.data_sentinel]

/-- Settles O35: a decode takes each byte from its place in the window, and a failure leaves sentinels. -/
theorem noFabricatedData : Obligations.NoFabricatedData := by
  intro s c h
  obtain ⟨t, ht⟩ := exec_next c s
  refine ⟨t, ht, fun i j => ?_⟩
  obtain rfl | ⟨k, rfl, hk⟩ := h
  · obtain ⟨_, rfl⟩ | ⟨_, rfl⟩ := execDecode_cases ht
    · exact s.decodeCommitted_data i j
    · exact .inl (s.clearRecord_data i j)
  · obtain ⟨hle, _⟩ | ⟨_, p, _, rfl⟩ | ⟨_, _, _, rfl⟩ := execDecryptDecode_cases ht
    · exact absurd hk (Nat.not_lt.2 hle)
    · exact (s.commitPlaintext p).decodeCommitted_data i j
    · exact .inl (s.clearRecord_data i j)

/-! The country codes (R190). -/

/-- A slot that can be located and whose raw bytes pass its check gives them as its value (R181, R184). -/
theorem slotResult_eq_value {f : FieldEntry} {p : List Byte} (hen : f.en = true) (hloc : canLocate f)
    (hok : kindOk f.kind (rawField f p) = true) : slotResult f p = .value (rawField f p) := by
  simp [slotResult, extract, hen, (locatable_iff f).2 hloc, hok]

theorem fieldWindow_pt_two {s : State} {f : FieldEntry} (hwidth : f.width.toNat = 2) (hin : f.offset.toNat + 2 ≤ 640) :
    fieldWindow f s.pt = [s.ptByte f.offset.toNat, s.ptByte (f.offset.toNat + 1)] := by
  refine List.ext_getElem? fun j => ?_
  rw [getElem?_fieldWindow, hwidth, State.getElem?_pt]
  match j with
  | 0 => rw [if_pos (by omega), if_pos (by omega)]; rfl
  | 1 => rw [if_pos (by omega), if_pos (by omega)]; rfl
  | j + 2 => rw [if_neg (by omega)]; rfl

/-- Settles O36: "ZA" is printable and ends in no fill, so the two bytes are the value. -/
theorem countryCodesDecode : Obligations.CountryCodesDecode := by
  intro s i o hlen hin hz ha hen hrule hkind hoffset hwidth hid
  have hraw : rawField s.ft[i.val] s.pt = [0x5A#8, 0x41#8] := by
    rw [rawField_fixed hrule, fieldWindow_pt_two hwidth (by omega), hoffset, hz, ha]
    decide
  have hloc : canLocate s.ft[i.val] := by
    obtain ⟨hge, hle⟩ : 1 ≤ s.ft[i.val].fieldId.toNat ∧ s.ft[i.val].fieldId.toNat ≤ 18 := by
      obtain hid | hid := hid <;> rw [hid] <;> decide
    exact ⟨hge, hle, by rw [hkind]; decide, by omega, by omega, by omega⟩
  have hvalue := slotResult_eq_value hen hloc (by rw [hraw, hkind]; decide)
  rw [hraw] at hvalue
  obtain ⟨c, valid, values, hexec, hslots, _⟩ := decodeFillsRecord s hlen
  obtain ⟨hvalid, _, hvlen, hdata⟩ := hslots i _ hvalue
  refine ⟨_, hexec, hvalid, hvlen, hdata 0, hdata 1, fun j hj => (hdata j).trans ?_⟩
  exact List.getD_eq_default _ _ hj

end Sys2Proof.Machine
end

section
/-! The family of 43_sequencing.md. The one command is set against the two: what DECRYPT_DECODE does is read off the outcome of
DECRYPT on the same state and the rules of DECODE. -/

namespace Sys2Proof.Machine

/-! Two commands one after the other (R211). -/

theorem execAll_pair_of_next {i j : Instr} {s t : State} (h : exec i s = .next t) : execAll [i, j] s = exec j t := by
  obtain ⟨u, hu⟩ := exec_next j t
  simp only [execAll, h, hu]

/-- A decryption that succeeds leaves a plaintext of 640 bytes, and the one command does what a DECODE of it does (R210). -/
theorem exec_decryptDecode_of_decrypt_ok {s t : State} {k : Byte} (h : exec (.decrypt k) s = .next t)
    (hok : t.status.err = .none) : t.ptLen.toNat = 640 ∧ exec (.decryptDecode k) s = exec .decode t := by
  obtain ⟨_, rfl⟩ | ⟨hk, p, hp, rfl⟩ | ⟨_, e, he, rfl⟩ := execDecrypt_cases h
  · cases hok
  · refine ⟨rfl, ?_⟩
    rw [exec_decryptDecode_of_ok hk hp, exec_decode_of_length rfl, State.decodeCommitted_complete,
      State.complete_complete]
  · exact absurd hok (State.decryptWith_error_ne_none he)

/-- With any PT_LEN but 640 a DECODE clears the record and reports MalformedRecordError (60_exceptions.md R228). -/
theorem exec_decode_of_length_ne {s : State} (h : s.ptLen.toNat ≠ 640) :
    exec .decode s = .next (s.clearRecord.complete .malformedRecord) := by
  obtain ⟨t, ht⟩ := exec_next .decode s
  obtain ⟨hlen, _⟩ | ⟨_, rfl⟩ := execDecode_cases ht
  · exact absurd hlen h
  · exact ht

/-- A failed decryption leaves PT_LEN = 0 and no record, so a DECODE after it changes ERR alone. -/
theorem exec_decode_failDecrypt (s : State) (e : ErrCode) :
    exec .decode (s.failDecrypt.complete e) = .next (s.failDecrypt.complete .malformedRecord) :=
  exec_decode_of_length_ne (s := s.failDecrypt.complete e) (show (0#16).toNat ≠ 640 by decide)

/-- Settles O38. After a success the second command is the second half of the one; after a failure both leave the failed
decryption's state, which DECODE completes with its own error. -/
theorem decryptDecodeEqualsSequence : Obligations.DecryptDecodeEqualsSequence := by
  intro s k hk
  cases h : s.decryptWith k with
  | ok p =>
    have hdecrypt := exec_decrypt_of_ok hk h
    have hone := exec_decryptDecode_of_ok hk h
    obtain ⟨_, hsame⟩ := exec_decryptDecode_of_decrypt_ok hdecrypt rfl
    have htwo := (execAll_pair_of_next hdecrypt).trans (hsame.symm.trans hone)
    exact ⟨_, _, htwo, hone, rfl, fun _ => rfl, fun hne => absurd rfl hne⟩
  | error e =>
    have hdecrypt := exec_decrypt_of_error hk h
    have htwo := (execAll_pair_of_next hdecrypt).trans (exec_decode_failDecrypt s e)
    exact ⟨_, _, htwo, exec_decryptDecode_of_error hk h, rfl,
      fun hnone => absurd hnone (State.decryptWith_error_ne_none h), fun _ => ⟨rfl, _, hdecrypt, rfl⟩⟩

/-! A DECRYPT_DECODE that succeeds (R210). -/

/-- Settles O37: the plaintext is DECRYPT's (O21), the record is DECODE's on the state DECRYPT leaves (O30), and COMPLETE is
`complete_fn` for either decoding command (O32). -/
theorem decryptDecodeDoesBoth : Obligations.DecryptDecodeDoesBoth := by
  intro s k hk hcount hn
  obtain ⟨m, hdecrypt, hblocks, houtside⟩ := decryptWritesPlaintext s k hk hcount hn
  obtain ⟨hptlen, hsame⟩ := exec_decryptDecode_of_decrypt_ok hdecrypt rfl
  obtain ⟨c, valid, values, hdecode, hvalue, hnone⟩ := decodeFillsRecord _ hptlen
  have hone := hsame.trans hdecode
  obtain ⟨t, ht, _, hcomplete, _⟩ := completeFlagExactly s (.decryptDecode k) (.inr ⟨k, rfl, hk, hcount, hn⟩)
  obtain rfl := Host.Outcome.next.inj (ht.symm.trans hone)
  refine ⟨m, c, valid, values, hone, hblocks, houtside, fun i v hv => ?_, hnone, hcomplete⟩
  obtain ⟨hvalid, _, hlen, hdata⟩ := hvalue i v hv
  exact ⟨hvalid, hlen, hdata⟩

end Sys2Proof.Machine
end

section
/-! The family of 60_exceptions.md. The engine's step, what each command commits and which error it reports, and the end of every
run. -/

namespace Sys2Proof.Machine

/-! The engine's step on the pending word (R222, R227). -/

theorem completePending_of_command {s : State} {w : Word} {i : Instr} (hp : s.pending = some w)
    (hd : decode s.cfg.keySlots w = .command i) : completePending s = exec i s := by
  simp only [completePending, hp, hd]

theorem completePending_of_illegal {s : State} {w : Word} {why : IllegalWord} (hp : s.pending = some w)
    (hd : decode s.cfg.keySlots w = .illegal why) : completePending s = .next (s.complete .illegalCommand) := by
  simp only [completePending, hp, hd, State.raise_eq]

theorem step_of_schedule_nil {s : State} (h : s.schedule = []) : step s = completePending s := by
  simp only [step, stepSchedule, h]

theorem step_of_schedule_cons {s : State} {e : Event} {rest : List Event} (h : s.schedule = e :: rest) :
    step s = takeEvent e { s with schedule := rest } := by
  simp only [step, stepSchedule, h]

theorem step_of_schedule_engine {s : State} {rest : List Event} (h : s.schedule = .engine :: rest) :
    step s = completePending { s with schedule := rest } := step_of_schedule_cons h

/-- Settles O6: the engine takes its step with no event left and on its own turn, and then the word's command runs. -/
theorem stepRunsDecodedCommand : Obligations.StepRunsDecodedCommand := by
  refine fun s w i hp hd => ⟨fun hs => ?_, fun rest hs => ?_⟩
  · exact (step_of_schedule_nil hs).trans (completePending_of_command hp hd)
  · exact (step_of_schedule_engine hs).trans (completePending_of_command (s := { s with schedule := rest }) hp hd)

/-- Settles O7: an illegal word has no writes of its own, so its step is the completion alone. -/
theorem illegalCommandChangesOnlyStatus : Obligations.IllegalCommandChangesOnlyStatus := fun s _ _ rest hp hd hs =>
  (step_of_schedule_engine hs).trans (completePending_of_illegal (s := { s with schedule := rest }) hp hd)

/-! What a command commits, before its completion (20_memory.md R76). -/

/-- The state a command's own writes leave of `s`, which its completion then ends. -/
inductive State.Commits (s : State) : Instr → State → Prop where
  | nop : s.Commits .nop s
  | clearInput : s.Commits .clearInput (s.setInput 0#16 (s.mem.store ctBase (zeroBytes inputLen)))
  | pushHex (c : Byte) : s.Commits (.pushHex c) (s.setInput (s.pushByte c).hexcnt (s.pushByte c).mem)
  | modpow (r : Big) : s.Commits .modpow (s.setResult r)
  | decode : s.Commits .decode s.decodeCommitted
  | decodeFailed : s.Commits .decode s.clearRecord
  | decrypt (k : Byte) {p : List Byte} (hp : p.length = 640) : s.Commits (.decrypt k) (s.commitPlaintext p)
  | decryptFailed (k : Byte) : s.Commits (.decrypt k) s.failDecrypt
  | decryptIllegal (k : Byte) : s.Commits (.decrypt k) s
  | decryptDecode (k : Byte) {p : List Byte} (hp : p.length = 640) :
      s.Commits (.decryptDecode k) (s.commitPlaintext p).decodeCommitted
  | decryptDecodeFailed (k : Byte) : s.Commits (.decryptDecode k) s.failDecrypt
  | decryptDecodeIllegal (k : Byte) : s.Commits (.decryptDecode k) s

/-- Every command commits and completes, whatever the state (R222, R223). -/
theorem exec_commits (i : Instr) (s : State) : ∃ u e, exec i s = .next (u.complete e) ∧ s.Commits i u := by
  obtain ⟨t, ht⟩ := exec_next i s
  cases i with
  | nop => exact ⟨_, _, rfl, .nop⟩
  | clearInput => exact ⟨_, _, rfl, .clearInput⟩
  | pushHex c =>
    refine ⟨_, .none, ?_, .pushHex c⟩
    exact exec_pushHex c s
  | modpow => obtain ⟨_, rfl⟩ | ⟨_, rfl⟩ := execModpow_cases ht <;> exact ⟨_, _, ht, .modpow _⟩
  | decrypt k =>
    obtain ⟨_, rfl⟩ | ⟨_, p, hp, rfl⟩ | ⟨_, _, _, rfl⟩ := execDecrypt_cases ht
    · exact ⟨_, _, ht, .decryptIllegal k⟩
    · obtain ⟨_, _, hlen, _⟩ := State.decryptWith_ok hp
      exact ⟨_, _, ht, .decrypt k hlen⟩
    · exact ⟨_, _, ht, .decryptFailed k⟩
  | decode =>
    obtain ⟨_, rfl⟩ | ⟨_, rfl⟩ := execDecode_cases ht
    · exact ⟨_, _, ht, .decode⟩
    · exact ⟨_, _, ht, .decodeFailed⟩
  | decryptDecode k =>
    obtain ⟨_, rfl⟩ | ⟨_, p, hp, rfl⟩ | ⟨_, _, _, rfl⟩ := execDecryptDecode_cases ht
    · exact ⟨_, _, ht, .decryptDecodeIllegal k⟩
    · obtain ⟨_, _, hlen, _⟩ := State.decryptWith_ok hp
      exact ⟨_, _, ht, .decryptDecode k hlen⟩
    · exact ⟨_, _, ht, .decryptDecodeFailed k⟩

/-- `u` is `s` but for the registers and buffers commands write: HEXCNT, CT, PT, OP_RES, PT_LEN and the record outputs. -/
def State.SameButOutputs (s u : State) : Prop :=
  ∃ count m result len recValid recComplete valid values, u =
    { s with
      hexcnt := count, mem := m, opRes := result, ptLen := len, recValid := recValid, recComplete := recComplete
      fieldValid := valid, fv := values }

theorem State.SameButOutputs.refl (s : State) : s.SameButOutputs s := ⟨_, _, _, _, _, _, _, _, rfl⟩

theorem State.SameButOutputs.cfg {s u : State} (h : s.SameButOutputs u) : u.cfg = s.cfg := by
  obtain ⟨_, _, _, _, _, _, _, _, rfl⟩ := h
  rfl

theorem State.SameButOutputs.ctrl {s u : State} (h : s.SameButOutputs u) : u.ctrl = s.ctrl := by
  obtain ⟨_, _, _, _, _, _, _, _, rfl⟩ := h
  rfl

theorem State.SameButOutputs.schedule {s u : State} (h : s.SameButOutputs u) : u.schedule = s.schedule := by
  obtain ⟨_, _, _, _, _, _, _, _, rfl⟩ := h
  rfl

section
variable {s u : State} {i : Instr}

theorem State.Commits.sameButOutputs (h : s.Commits i u) : s.SameButOutputs u := by
  cases h <;> exact ⟨_, _, _, _, _, _, _, _, rfl⟩

theorem State.Commits.opRes (h : s.Commits i u) (hi : i ≠ .modpow) : u.opRes = s.opRes := by
  cases h with
  | modpow r => exact absurd rfl hi
  | _ => rfl

/-- Only CLEAR_INPUT and PUSH_HEX write HEXCNT or the buffers outside PT. -/
theorem State.Commits.input (h : s.Commits i u) (hclear : i ≠ .clearInput) (hpush : ∀ c, i ≠ .pushHex c) :
    u.hexcnt = s.hexcnt ∧ ∀ a, ¬ inPt a → u.mem.read a = s.mem.read a := by
  cases h with
  | clearInput => exact absurd rfl hclear
  | pushHex c => exact absurd rfl (hpush c)
  | nop | modpow _ | decode | decodeFailed | decryptIllegal _ | decryptDecodeIllegal _ => exact ⟨rfl, fun _ _ => rfl⟩
  | decrypt _ hp | decryptDecode _ hp => exact ⟨rfl, fun _ ha => s.mem.read_store_outsidePt hp ha⟩
  | decryptFailed _ | decryptDecodeFailed _ =>
    exact ⟨rfl, fun _ ha => s.mem.read_store_outsidePt (length_zeroBytes ptSize) ha⟩

/-- NOP, CLEAR_INPUT, PUSH_HEX and MODPOW write no PT_LEN, no record output and the buffers inside CT alone. -/
theorem State.Commits.output (h : s.Commits i u)
    (hi : i = .nop ∨ i = .clearInput ∨ (∃ c, i = .pushHex c) ∨ i = .modpow) :
    u.ptLen = s.ptLen ∧ u.recValid = s.recValid ∧ u.recComplete = s.recComplete ∧ u.fieldValid = s.fieldValid ∧
      u.fv = s.fv ∧ ∀ a, ¬ inCt a → u.mem.read a = s.mem.read a := by
  obtain rfl | rfl | ⟨c, rfl⟩ | rfl := hi <;> cases h
  case nop | modpow => exact ⟨rfl, rfl, rfl, rfl, rfl, fun _ _ => rfl⟩
  case clearInput =>
    exact ⟨rfl, rfl, rfl, rfl, rfl, fun a ha => (Memory.read_store_zeroBytes s.mem ctBase inputLen a).trans (if_neg ha)⟩
  case pushHex => exact ⟨rfl, rfl, rfl, rfl, rfl, fun _ ha => read_pushByte_outside s c ha⟩

/-- No command writes a byte outside CT and PT: one that writes CT writes no PT. -/
theorem State.Commits.read_outside (h : s.Commits i u) {a : Nat} (hct : ¬ inCt a) (hpt : ¬ inPt a) :
    u.mem.read a = s.mem.read a := by
  by_cases hi : i = .clearInput ∨ ∃ c, i = .pushHex c
  · obtain ⟨_, _, _, _, _, hread⟩ := h.output (by obtain hi | hi := hi <;> simp [hi])
    exact hread a hct
  · obtain ⟨_, hread⟩ := h.input (fun hc => hi (.inl hc)) fun c hc => hi (.inr ⟨c, hc⟩)
    exact hread a hpt

theorem State.Commits.ptLen_of_decode (h : s.Commits .decode u) : u.ptLen = s.ptLen := by
  cases h <;> rfl

theorem State.Commits.mem (h : s.Commits i u) (hi : i = .nop ∨ i = .modpow ∨ i = .decode) : u.mem = s.mem := by
  obtain rfl | rfl | rfl := hi <;> cases h <;> rfl

end

theorem not_inPt_ct {j : Nat} (hj : j < 720) : ¬ inPt (ctBase + j) := by
  simp only [inPt, ctBase, ptBase]
  omega

theorem not_inCt_pt (j : Nat) : ¬ inCt (ptBase + j) := by
  simp only [inCt, ctBase, ptBase, inputLen]
  omega

/-- Settles O8: the commit keeps everything outside its command's row of R76, and the completion writes STATUS and PENDING. -/
theorem everyCommandCompletesInItsFrame : Obligations.EveryCommandCompletesInItsFrame := by
  intro i s
  obtain ⟨u, e, hexec, hu⟩ := exec_commits i s
  obtain ⟨_, m, _, _, _, _, _, _, rfl⟩ := hu.sameButOutputs
  refine ⟨_, hexec, rfl, rfl, rfl, rfl, rfl, rfl, rfl, rfl, rfl, rfl, rfl, rfl, rfl, rfl, rfl, fun a => hu.read_outside,
    fun hclear hpush => ?_, hu.opRes, fun hi => ?_, fun hi => ?_, fun hi a => ?_⟩
  · obtain ⟨hcount, hread⟩ := hu.input hclear hpush
    exact ⟨hcount, fun j hj => hread _ (not_inPt_ct hj)⟩
  · obtain ⟨hlen, hvalid, hcomplete, hfields, hvalues, hread⟩ := hu.output hi
    exact ⟨hlen, hvalid, hcomplete, hfields, hvalues, fun j _ => hread _ (not_inCt_pt j)⟩
  · subst hi
    exact hu.ptLen_of_decode
  · exact congrArg (Memory.read · a) (hu.mem hi)

/-! Which error a command reports (R221). -/

/-- ERR of a DECRYPT or a DECRYPT_DECODE: the slot is checked first, then the length, then the key (R225, R226, R230). -/
def State.decryptErr (s : State) (k : Byte) : ErrCode :=
  if s.cfg.keySlots ≤ k.toNat then .illegalCommand
  else if s.hexcnt.toNat ≠ 1440 then .invalidInput
  else if s.modulusOf k ≤ 1 then .crypto
  else .none

/-- ERR of a command. -/
def State.errOf (s : State) : Instr → ErrCode
  | .nop | .clearInput | .pushHex _ => .none
  | .modpow => if s.opMod.toNat = 0 then .crypto else .none
  | .decrypt k | .decryptDecode k => s.decryptErr k
  | .decode => if s.ptLen.toNat ≠ 640 then .malformedRecord else .none

theorem State.decryptErr_of_le {s : State} {k : Byte} (h : s.cfg.keySlots ≤ k.toNat) : s.decryptErr k = .illegalCommand :=
  if_pos h

theorem State.decryptErr_of_ok {s : State} {k : Byte} {p : List Byte} (hk : s.legalSlot k) (h : s.decryptWith k = .ok p) :
    s.decryptErr k = .none := by
  obtain ⟨hcount, hn, _⟩ := State.decryptWith_ok h
  rw [State.decryptErr, if_neg (Nat.not_le.2 hk), if_neg (not_not.2 hcount), if_neg (Nat.not_le.2 hn)]

theorem State.decryptErr_of_error {s : State} {k : Byte} {e : ErrCode} (hk : s.legalSlot k)
    (h : s.decryptWith k = .error e) : s.decryptErr k = e := by
  rw [State.decryptErr, if_neg (Nat.not_le.2 hk)]
  obtain ⟨hcount, rfl⟩ | ⟨hcount, hn, rfl⟩ := State.decryptWith_error h
  · exact if_pos hcount
  · rw [if_neg (not_not.2 hcount), if_pos hn]

theorem exec_err (i : Instr) (s : State) : ∃ t, exec i s = .next t ∧ t.status.err = s.errOf i := by
  obtain ⟨t, ht⟩ := exec_next i s
  refine ⟨t, ht, ?_⟩
  cases i with
  | nop | clearInput | pushHex _ =>
    cases ht
    rfl
  | modpow =>
    obtain ⟨hn, rfl⟩ | ⟨hn, rfl⟩ := execModpow_cases ht
    · exact (if_pos hn).symm
    · exact (if_neg hn).symm
  | decrypt k =>
    obtain ⟨hk, rfl⟩ | ⟨hk, _, hp, rfl⟩ | ⟨hk, _, he, rfl⟩ := execDecrypt_cases ht
    · exact (State.decryptErr_of_le hk).symm
    · exact (State.decryptErr_of_ok hk hp).symm
    · exact (State.decryptErr_of_error hk he).symm
  | decode =>
    obtain ⟨hlen, rfl⟩ | ⟨hlen, rfl⟩ := execDecode_cases ht
    · exact (if_neg (not_not.2 hlen)).symm
    · exact (if_pos hlen).symm
  | decryptDecode k =>
    obtain ⟨hk, rfl⟩ | ⟨hk, _, hp, rfl⟩ | ⟨hk, _, he, rfl⟩ := execDecryptDecode_cases ht
    · exact (State.decryptErr_of_le hk).symm
    · exact (State.decryptErr_of_ok hk hp).symm
    · exact (State.decryptErr_of_error hk he).symm

/-- The four checks of `decryptErr` read backwards. -/
theorem State.decryptErr_iff (s : State) (k : Byte) :
    (s.decryptErr k = .illegalCommand ↔ s.cfg.keySlots ≤ k.toNat) ∧
    (s.decryptErr k = .invalidInput ↔ s.legalSlot k ∧ s.hexcnt.toNat ≠ 1440) ∧
    (s.decryptErr k = .crypto ↔ s.legalSlot k ∧ s.hexcnt.toNat = 1440 ∧ s.modulusOf k ≤ 1) ∧
    s.decryptErr k ≠ .malformedRecord := by
  simp only [State.decryptErr, State.legalSlot, ← Nat.not_le]
  split
  · next h => simp [h]
  · next h =>
    split
    · next hcount => simp [h, hcount]
    · next hcount =>
      split
      · next hn => simp [h, not_not.1 hcount, hn]
      · next hn => simp [h, not_not.1 hcount, hn]

/-- Settles O9: `errOf` is the error of a command, and each of its checks gives one code. -/
theorem errorCausesExactly : Obligations.ErrorCausesExactly := by
  intro i s
  obtain ⟨t, ht, herr⟩ := exec_err i s
  refine ⟨t, ht, ?_⟩
  rw [herr]
  cases i with
  | nop | clearInput | pushHex _ => simp [State.errOf, Instr.wf]
  | modpow => by_cases hn : s.opMod.toNat = 0 <;> simp [State.errOf, Instr.wf, hn]
  | decode => by_cases hlen : s.ptLen.toNat = 640 <;> simp [State.errOf, Instr.wf, hlen]
  | decrypt k | decryptDecode k =>
    obtain ⟨hillegal, hinput, hcrypto, hrecord⟩ := s.decryptErr_iff k
    simp [State.errOf, Instr.wf, hillegal, hinput, hcrypto, hrecord]

/-! Failures leave no output (R224 to R226, R228). -/

theorem State.decryptWith_eq_error {s : State} {k : Byte} (h : s.hexcnt.toNat ≠ 1440 ∨ s.modulusOf k ≤ 1) :
    s.decryptWith k = .error (if s.hexcnt.toNat ≠ 1440 then .invalidInput else .crypto) := by
  cases hd : s.decryptWith k with
  | ok p =>
    obtain ⟨hcount, hn, _⟩ := State.decryptWith_ok hd
    exact absurd h (not_or.2 ⟨not_not.2 hcount, Nat.not_le.2 hn⟩)
  | error e =>
    obtain ⟨hcount, rfl⟩ | ⟨hcount, _, rfl⟩ := State.decryptWith_error hd
    · rw [if_pos hcount]
    · rw [if_neg (not_not.2 hcount)]

/-- Settles O22: either command commits the failed decryption, whose zero bytes cover PT exactly. -/
theorem failedDecryptLeavesNoOutput : Obligations.FailedDecryptLeavesNoOutput := by
  intro s k i hi hk hfail
  have herror := State.decryptWith_eq_error hfail
  refine ⟨s.mem.store ptBase (zeroBytes ptSize), ?_, Memory.read_store_zeroBytes s.mem ptBase ptSize⟩
  obtain rfl | rfl := hi
  · exact exec_decrypt_of_error hk herror
  · exact exec_decryptDecode_of_error hk herror

/-- Settles O31: a refused DECODE clears the record, and the completion writes STATUS and PENDING. -/
theorem decodeOfWrongLength : Obligations.DecodeOfWrongLength := fun _ h => exec_decode_of_length_ne h

/-! Field errors (R229). -/

/-- A slot gives a value exactly when it is enabled, can be located and passes its kind's check. -/
theorem isValue_slotResult_iff (f : FieldEntry) (p : List Byte) :
    (slotResult f p).isValue = true ↔ f.en = true ∧ canLocate f ∧ kindOk f.kind (rawField f p) = true := by
  refine ⟨fun h => ?_, fun ⟨hen, hloc, hok⟩ => ?_⟩
  · cases hr : slotResult f p with
    | value v =>
      obtain ⟨hen, hloc, rfl, hok, _⟩ := slotResult_value hr
      exact ⟨hen, hloc, hok⟩
    | fieldError | disabled =>
      rw [hr] at h
      cases h
  · rw [slotResult_eq_value hen hloc hok]
    rfl

/-- Settles O33: the slot's outputs are its result's, and COMPLETE asks a value of every enabled slot. -/
theorem fieldErrorsStayInTheirSlot : Obligations.FieldErrorsStayInTheirSlot := by
  refine fun s i hlen => ⟨_, exec_decode_of_length hlen, rfl, ?_, fun hinvalid => ?_, fun hen hinvalid => ?_⟩
  · rw [State.complete_fieldValid, State.decodeCommitted_fieldValid]
    exact isValue_slotResult_iff _ _
  · rw [State.complete_fieldValid, State.decodeCommitted_fieldValid] at hinvalid
    rw [State.complete_fv, State.decodeCommitted_fv]
    exact SlotResult.fieldValue_of_isValue_false hinvalid
  · refine Bool.eq_false_iff.2 fun hcomplete => ?_
    obtain ⟨hslots, _⟩ := s.decodeCommitted_recComplete_iff.1 hcomplete
    exact Bool.eq_false_iff.1 hinvalid (hslots i hen)

/-! The interrupt (R232). -/

theorem irq_iff (s : State) : irq s = true ↔ s.status.done = true ∧ s.ctrl.irqEn = true := by
  simp [irq]

theorem irq_of_not_done {s : State} (h : s.status.done = false) : irq s = false := by
  simp [irq, h]

theorem irq_of_not_irqEn {s : State} (h : s.ctrl.irqEn = false) : irq s = false := by
  simp [irq, h]

/-- A pending word completes, legal or not, and the engine writes the outputs of commands alone before it. -/
theorem completePending_of_pending {s : State} {w : Word} (hp : s.pending = some w) :
    ∃ u e, completePending s = .next (u.complete e) ∧ s.SameButOutputs u := by
  cases hd : decode s.cfg.keySlots w with
  | command i =>
    obtain ⟨u, e, hexec, hu⟩ := exec_commits i s
    exact ⟨u, e, (completePending_of_command hp hd).trans hexec, hu.sameButOutputs⟩
  | illegal why => exact ⟨s, _, completePending_of_illegal hp hd, .refl s⟩

/-- Settles O53: a completion raises DONE and keeps CTRL; each fall is a write, an acceptance or a reset that clears a factor. -/
theorem interruptLevel : Obligations.InterruptLevel := by
  refine ⟨irq_iff, fun s w hp => ?_, fun s v hv => ?_, fun s v hv => ?_, fun s w hidle => ?_, fun _ => rfl⟩
  · obtain ⟨u, e, hcomplete, hu⟩ := completePending_of_pending hp
    exact ⟨_, hcomplete, congrArg Ctrl.irqEn hu.ctrl⟩
  · rw [busWrite_aligned (by decide)]
    exact irq_of_not_done (show (s.status.done && !v.getLsbD 1) = false by simp [hv])
  · rw [busWrite_aligned (by decide)]
    exact irq_of_not_irqEn hv
  · rw [busWrite_aligned (by decide), show regAt s.cfg.keySlots 0x004 = .cmd from rfl, writeReg_cmd_idle hidle]
    exact irq_of_not_done rfl

/-! Every run ends (R223). -/

theorem completePending_ends (s : State) :
    ∃ t, completePending s = .next t ∧ t.pending = none ∧ t.cfg = s.cfg ∧ t.schedule = s.schedule := by
  cases hp : s.pending with
  | none => exact ⟨s, by simp only [completePending, hp], hp, rfl, rfl⟩
  | some w =>
    obtain ⟨u, e, hcomplete, hu⟩ := completePending_of_pending hp
    exact ⟨_, hcomplete, rfl, hu.cfg, hu.schedule⟩

theorem guarded_schedule {s t : State} (h : t.schedule = s.schedule) : (s.guarded t).schedule = s.schedule := by
  obtain ⟨_, he⟩ | ⟨_, he⟩ := State.guarded_cases s t <;> rw [he]
  · rfl
  · exact h

theorem guardedKey_schedule {s t : State} (h : t.schedule = s.schedule) : (s.guardedKey t).schedule = s.schedule := by
  obtain ⟨_, _, he⟩ | ⟨_, _, he⟩ | ⟨_, _, he⟩ | ⟨_, _, he⟩ := State.guardedKey_cases s t <;> rw [he]
  · rfl
  · rfl
  · rfl
  · exact h

theorem writeReg_schedule (s : State) (v : Word) (r : WindowReg) : (writeReg s v r).schedule = s.schedule := by
  cases r with
  | id | status | ctrl | hexcnt | recStatus | fieldValid | params | opRes _ | ct _ | fvLen _ | fvData _ _ | unmapped => rfl
  | cmd | ptLen | opBase _ | opExp _ | opMod _ | pt _ | ftW0 _ | ftW1 _ => exact guarded_schedule rfl
  | keyVersion _ | keyMod _ _ | keyExp _ _ => exact guardedKey_schedule rfl

theorem busWrite_schedule (size : AccessSize) (off : Nat) (v : Word) (s : State) :
    (busWrite size off v s).schedule = s.schedule := by
  obtain ⟨r, he⟩ | ⟨_, _, r, he⟩ := busWrite_cases size off v s <;> rw [he]
  · rfl
  · exact writeReg_schedule s v _

/-- An event in the window never stops, and leaves the launch and the events after it. -/
theorem takeEvent_next {e : Event} {s : State} (he : e.inWindow s.cfg = true) :
    ∃ t, takeEvent e s = .next t ∧ t.cfg = s.cfg ∧ t.schedule = s.schedule := by
  cases e with
  | engine =>
    obtain ⟨t, ht, _, hkeep⟩ := completePending_ends s
    exact ⟨t, ht, hkeep⟩
  | reset => exact ⟨_, rfl, rfl, rfl⟩
  | read size addr =>
    obtain ⟨off, hoff⟩ := Option.isSome_iff_exists.1 he
    obtain ⟨r, hr⟩ := busRead_eq size off s
    exact ⟨s.respond r, by simp only [takeEvent, hoff, hr], rfl, rfl⟩
  | write size addr v =>
    obtain ⟨off, hoff⟩ := Option.isSome_iff_exists.1 he
    obtain ⟨hcfg, _⟩ := sameLaunch_busWrite size off v s
    exact ⟨busWrite size off v s, by simp only [takeEvent, hoff], hcfg, busWrite_schedule size off v s⟩

theorem run_succ_of_step {s t : State} (h : step s = .next t) (k : Nat) :
    Host.Core.run core (k + 1) s = Host.Core.run core k t := by
  have hcore : core.step s = .next t := h
  simp only [Host.Core.run, hcore]

/-- Settles O54, by induction on the schedule: each event's step takes it off, and the engine's last one clears PENDING. -/
theorem everyRunEnds : Obligations.EveryRunEnds := by
  intro s hwindow
  generalize hs : s.schedule = events at hwindow ⊢
  induction events generalizing s with
  | nil =>
    obtain ⟨t, ht, hpending, _, hschedule⟩ := completePending_ends s
    exact ⟨t, run_succ_of_step ((step_of_schedule_nil hs).trans ht) 0, hschedule.trans hs, hpending⟩
  | cons e rest ih =>
    obtain ⟨he, hrest⟩ := List.forall_mem_cons.1 hwindow
    obtain ⟨t, ht, hcfg, hschedule⟩ := takeEvent_next (s := { s with schedule := rest }) he
    obtain ⟨u, hu, hfinished⟩ := ih t hschedule (fun x hx => hcfg ▸ hrest x hx)
    exact ⟨u, (run_succ_of_step ((step_of_schedule_cons hs).trans ht) _).trans hu, hfinished⟩

end Sys2Proof.Machine
end

section
/-! The family of 70_reset_and_hazards.md. What a reset leaves, which error a command without its set-up reports, what a host
write while busy changes, and that it changes nothing of what the running command computes. -/

namespace Sys2Proof.Machine

/-! The reset state (R260, R261). -/

/-- A reset of a block in the reset state changes nothing. -/
theorem assertReset_resetOf (c : Config) : (State.resetOf c).assertReset = State.resetOf c := rfl

/-- Settles O60: a reset establishes each invariant whatever the state, and it leaves the reset state. -/
theorem resetHasEveryInv : Obligations.ResetHasEveryInv := by
  intro c hwf
  rw [← assertReset_resetOf c]
  exact ⟨memoryInv_assertReset _, handshakeInv_assertReset _, recordInv_assertReset _,
    inputInv_of_ctByte_eq_zero fun _ _ => rfl, hwf, List.length_replicate⟩

/-- The host reads 0 of every key slot of the reset state, those the launch does not have included (20_memory.md R65). -/
theorem key_resetOf (c : Config) (k : Nat) : (State.resetOf c).key k = KeySlot.reset := by
  simp only [State.key, State.resetOf, List.getElem?_replicate]
  split <;> rfl

theorem ft_resetOf (c : Config) (i : Fin 32) : (State.resetOf c).ft[i.val] = FieldEntry.reset := Vector.getElem_replicate _

theorem fv_resetOf (c : Config) (i : Fin 32) : (State.resetOf c).fv[i.val] = FieldValue.sentinel :=
  Vector.getElem_replicate _

theorem bigWord_zero (j : Fin 32) : bigWord 0#1024 j = 0#32 := by
  rw [bigWord, BitVec.extractLsb'_zero]

theorem fieldValidWord_none_valid : fieldValidWord (Vector.replicate 32 false) = 0#32 := by
  refine BitVec.eq_of_getLsbD_eq fun i hi => ?_
  rw [fieldValidWord, BitVec.getLsbD_ofFnLE, dif_pos hi, Vector.getElem_replicate, BitVec.getLsbD_zero]

theorem statusWord_reset : statusWord Status.reset = 0#32 := by decide

theorem ctrlWord_reset : ctrlWord Ctrl.reset = 0#32 := by decide

theorem recStatusWord_of_not_valid {s : State} (hvalid : s.recValid = false) (hcomplete : s.recComplete = false) :
    recStatusWord s = 0#32 := by
  rw [recStatusWord, hvalid, hcomplete]
  decide

theorem wordOfLanes_zero : wordOfLanes 0#8 0#8 0#8 0#8 = 0#32 := by decide

theorem dataWord_sentinel (w : Fin 16) : FieldValue.sentinel.dataWord w = 0#32 := by
  simp only [FieldValue.dataWord, FieldValue.sentinel, Vector.getElem_replicate]
  exact wordOfLanes_zero

/-- After reset every register but ID and PARAMS reads 0 (R260). -/
theorem readReg_resetOf (c : Config) {r : WindowReg} (hid : r ≠ .id) (hparams : r ≠ .params) :
    readReg (State.resetOf c) r = 0#32 := by
  cases r with
  | id => exact absurd rfl hid
  | params => exact absurd rfl hparams
  | cmd | hexcnt | ptLen | unmapped => rfl
  | status => exact statusWord_reset
  | ctrl => exact ctrlWord_reset
  | recStatus => exact recStatusWord_of_not_valid rfl rfl
  | ct _ | pt _ => exact wordOfLanes_zero
  | fieldValid => exact fieldValidWord_none_valid
  | opBase j | opExp j | opMod j | opRes j => exact bigWord_zero j
  | keyVersion k => simp only [readReg, key_resetOf]; rfl
  | keyMod k j | keyExp k j =>
    simp only [readReg, key_resetOf]
    exact bigWord_zero j
  | ftW0 i | ftW1 i => simp only [readReg, ft_resetOf]; rfl
  | fvLen i => simp only [readReg, fv_resetOf]; rfl
  | fvData i w =>
    simp only [readReg, fv_resetOf]
    exact dataWord_sentinel w

theorem readOffset_resetOf (c : Config) {off : Nat} (h4 : off % 4 = 0) (hid : off ≠ 0x000) (hparams : off ≠ 0x020) :
    readOffset (State.resetOf c) off = 0#32 := by
  have hr := regAt_standsAt c.keySlots h4
  refine readReg_resetOf c (fun he => hid ?_) fun he => hparams ?_
  · have h : WindowReg.id.StandsAt c.keySlots off := he ▸ hr
    simpa only [WindowReg.StandsAt] using h
  · have h : WindowReg.params.StandsAt c.keySlots off := he ▸ hr
    simpa only [WindowReg.StandsAt] using h

/-- Settles O51: the event leaves the reset state of the launch with the later events, and no field or register of it depends
on these. -/
theorem resetGivesResetState : Obligations.ResetGivesResetState := by
  intro s rest hs
  refine ⟨_, step_of_schedule_cons hs, rfl, statusWord_reset, ctrlWord_reset, rfl, fun _ _ => rfl,
    List.length_replicate, key_resetOf s.cfg, rfl, rfl, rfl, rfl, fun _ _ => rfl, rfl, recStatusWord_of_not_valid rfl rfl,
    fieldValidWord_none_valid, fun i => ?_, fv_resetOf s.cfg, rfl, rfl, rfl, rfl, rfl, fun off h4 hid hparams => ?_⟩
  · have hft : _ = FieldEntry.reset := ft_resetOf s.cfg i
    exact ⟨congrArg FieldEntry.w0 hft, congrArg FieldEntry.w1 hft, congrArg FieldEntry.en hft⟩
  · exact (readReg_schedule (State.resetOf s.cfg) rest _).trans (readOffset_resetOf s.cfg h4 hid hparams)

/-! A command without its set-up (R263). -/

/-- Before any key is loaded the modulus of every slot is 0. -/
theorem modulusOf_resetOf (c : Config) (k : Byte) : (State.resetOf c).modulusOf k = 0 := by
  rw [State.modulusOf, key_resetOf]
  exact BitVec.toNat_zero

/-- Settles O52: from reset the length check of decrypt_fn fails first, with 1440 digits its key check, and PT_LEN is 0. -/
theorem commandsWithoutSetUpFail : Obligations.CommandsWithoutSetUpFail := by
  intro c k i hk hi
  have herr (s : State) : s.errOf i = s.decryptErr k := by obtain rfl | rfl := hi <;> rfl
  refine ⟨?_, fun m => ?_, _, exec_decode_of_length_ne (s := State.resetOf c) (show (0#16).toNat ≠ 640 by decide), rfl⟩
  · obtain ⟨_, hinput, _, _⟩ := (State.resetOf c).decryptErr_iff k
    obtain ⟨t, ht, hcode⟩ := exec_err i (State.resetOf c)
    exact ⟨t, ht, (hcode.trans (herr _)).trans (hinput.2 ⟨hk, show (0#16).toNat ≠ 1440 by decide⟩)⟩
  · obtain ⟨_, _, hcrypto, _⟩ := { State.resetOf c with hexcnt := 1440#16, mem := m }.decryptErr_iff k
    obtain ⟨t, ht, hcode⟩ := exec_err i { State.resetOf c with hexcnt := 1440#16, mem := m }
    exact ⟨t, ht, (hcode.trans (herr _)).trans (hcrypto.2 ⟨hk, rfl, (modulusOf_resetOf c k).trans_le zero_le_one⟩)⟩

/-! Host writes while busy (R266). -/

theorem isGuardedOffset_aligned {off : Nat} (h : isGuardedOffset off) : off % 4 = 0 ∧ off < 0x5000 := by
  obtain ⟨h4, h⟩ := h
  omega

/-- Read-only and unmapped offsets lie in the window. -/
theorem ignoredOffset_lt {ks off : Nat} (h : isReadOnlyOffset off ∨ isUnmappedOffset ks off) : off < 0x5000 := by
  obtain ⟨_, h⟩ | ⟨_, h⟩ := h <;> omega

/-- A write of any register of R266 other than CMD and KEY is guarded by BUSY alone. -/
theorem writeReg_isGuardedOffset (ks : Nat) {off : Nat} (h : isGuardedOffset off) (s : State) (v : Word) :
    ∃ t, writeReg s v (regAt ks off) = s.guarded t := by
  obtain ⟨h4, h⟩ := h
  have hr := regAt_standsAt ks h4
  cases hreg : regAt ks off with
  | ptLen | opBase _ | opExp _ | opMod _ | pt _ | ftW0 _ | ftW1 _ => exact ⟨_, rfl⟩
  | _ =>
    rw [hreg] at hr
    simp only [WindowReg.StandsAt, isUnmappedOffset] at hr
    omega

theorem State.guardedKey_unlocked_busy {s : State} (hk : s.ctrl.keyLock = false) (hb : s.status.busy = true) (t : State) :
    s.guardedKey t = s.markOverrun := by
  simp [State.guardedKey, State.guarded, hk, hb]

/-- A write of CMD, of another register of R266 or of an unlocked key is dropped with OVERRUN (10_state.md R27). -/
theorem writeReg_protected_busy {s : State} (hks : s.cfg.keySlots ≤ 8) (hb : s.status.busy = true) {off : Nat}
    (h : off = 0x004 ∨ isGuardedOffset off ∨ (isKeyOffset s.cfg.keySlots off ∧ s.ctrl.keyLock = false)) (v : Word) :
    off % 4 = 0 ∧ off < 0x5000 ∧ writeReg s v (regAt s.cfg.keySlots off) = s.markOverrun := by
  obtain rfl | hguarded | ⟨hkey, hopen⟩ := h
  · exact ⟨by decide, by decide, writeReg_cmd_busy hb v⟩
  · obtain ⟨t, ht⟩ := writeReg_isGuardedOffset s.cfg.keySlots hguarded s v
    obtain ⟨h4, hoff⟩ := isGuardedOffset_aligned hguarded
    exact ⟨h4, hoff, ht.trans (State.guarded_busy hb t)⟩
  · obtain ⟨h4, hoff⟩ := isKeyOffset_aligned hks hkey
    obtain ⟨t, ht⟩ := writeReg_isKeyOffset hks hkey s v
    exact ⟨h4, hoff, ht.trans (State.guardedKey_unlocked_busy hopen hb t)⟩

/-- A key write while busy sets OVERRUN, and LOCK_VIOLATION at most besides. -/
theorem State.guardedKey_busy {s : State} (hb : s.status.busy = true) (t : State) : ∃ locked, s.guardedKey t =
    { s with status := { s.status with overrun := true, lockViolation := locked } } := by
  cases hk : s.ctrl.keyLock with
  | true => exact ⟨true, State.guardedKey_locked_busy hk hb t⟩
  | false => exact ⟨s.status.lockViolation, State.guardedKey_unlocked_busy hk hb t⟩

/-- Settles O40: the step is the write of the register at the offset, guarded where R266 protects it. -/
theorem writesWhileBusy : Obligations.WritesWhileBusy := by
  intro s off v rest hwf hb hs
  have hks := Config.keySlots_le hwf
  obtain ⟨hstatus, hctrl⟩ := statusAndCtrlWrites s off v rest hs
  refine ⟨fun h => ?_, fun hkey => ?_, fun hoff => ?_, fun hoff => ?_, fun h => ?_⟩
  · obtain ⟨h4, hoff, hw⟩ := writeReg_protected_busy (s := { s with schedule := rest }) hks hb h v
    exact step_write hs h4 hoff hw
  · obtain ⟨h4, hoff⟩ := isKeyOffset_aligned hks hkey
    obtain ⟨t, ht⟩ := writeReg_isKeyOffset hks hkey { s with schedule := rest } v
    obtain ⟨locked, hlocked⟩ := State.guardedKey_busy (s := { s with schedule := rest }) hb t
    exact ⟨locked, step_write hs h4 hoff (ht.trans hlocked)⟩
  · exact hstatus hoff
  · exact hctrl hoff
  · obtain ⟨h4, hignored⟩ := ignoresWrites_regAt h.symm
    exact step_write hs h4 (ignoredOffset_lt h) (writeReg_of_ignoresWrites hignored _ v)

/-! A running command and the host (R266, R270 and 20_memory.md R73). -/

/-- The fields a host access while busy can change, given new contents: STATUS, CTRL, the events to come, the port's answer. -/
def State.withHostFields (t : Status) (c : Ctrl) (events : List Event) (q : Option Response) (s : State) : State :=
  { s with status := t, ctrl := c, schedule := events, response := q }

theorem takeEvent_access_busy_hostFields {e : Event} {s t : State} (hb : s.status.busy = true) (he : e.isAccess = true)
    (h : takeEvent e s = .next t) : ∃ st c q, t = s.withHostFields st c s.schedule q := by
  obtain ⟨hengine, hreset⟩ := Event.ne_of_isAccess he
  obtain ⟨_, _, _, _, _, rfl⟩ := takeEvent_busy hb hengine hreset h
  exact ⟨_, _, _, rfl⟩

theorem State.pushByte_withHostFields (x : Byte) (s : State) (t : Status) (c : Ctrl) (events : List Event)
    (q : Option Response) :
    (s.withHostFields t c events q).pushByte x = (s.pushByte x).withHostFields t c events q := by
  simp only [State.pushByte]
  split <;> rfl

/-- DECRYPT and DECRYPT_DECODE with a slot the launch does not have are illegal commands (30_encoding.md R95). -/
theorem exec_decrypting_illegal {s : State} {k : Byte} {i : Instr} (hi : i = .decrypt k ∨ i = .decryptDecode k)
    (hk : ¬ s.legalSlot k) : exec i s = .next (s.complete .illegalCommand) := by
  obtain rfl | rfl := hi
  · exact if_neg hk
  · exact if_neg hk

/-- No command reads or writes those fields before its completion: it commits and reports the same whatever they hold. -/
theorem exec_withHostFields (i : Instr) (s : State) (t : Status) (c : Ctrl) (events : List Event) (q : Option Response) :
    ∃ (u : State) (e : ErrCode), exec i s = .next (u.complete e) ∧
      exec i (s.withHostFields t c events q) = .next ((u.withHostFields t c events q).complete e) := by
  cases i with
  | nop | clearInput => exact ⟨_, _, rfl, rfl⟩
  | pushHex x => exact ⟨_, _, rfl, by rw [← State.pushByte_withHostFields]; rfl⟩
  | modpow =>
    by_cases hn : s.opMod.toNat = 0
    · exact ⟨_, _, exec_modpow_of_zero hn, exec_modpow_of_zero hn⟩
    · exact ⟨_, _, exec_modpow_of_ne_zero hn, exec_modpow_of_ne_zero hn⟩
  | decode =>
    by_cases hlen : s.ptLen.toNat = 640
    · exact ⟨_, _, exec_decode_of_length hlen, exec_decode_of_length hlen⟩
    · exact ⟨_, _, exec_decode_of_length_ne hlen, exec_decode_of_length_ne hlen⟩
  | decrypt k =>
    by_cases hk : s.legalSlot k
    · cases hd : s.decryptWith k with
      | ok p => exact ⟨_, _, exec_decrypt_of_ok hk hd, exec_decrypt_of_ok hk hd⟩
      | error e => exact ⟨_, _, exec_decrypt_of_error hk hd, exec_decrypt_of_error hk hd⟩
    · exact ⟨_, _, exec_decrypting_illegal (.inl rfl) hk,
        exec_decrypting_illegal (.inl rfl) hk⟩
  | decryptDecode k =>
    by_cases hk : s.legalSlot k
    · cases hd : s.decryptWith k with
      | ok p =>
        exact ⟨_, _, exec_decryptDecode_of_ok hk hd, exec_decryptDecode_of_ok hk hd⟩
      | error e =>
        exact ⟨_, _, exec_decryptDecode_of_error hk hd, exec_decryptDecode_of_error hk hd⟩
    · exact ⟨_, _, exec_decrypting_illegal (.inr rfl) hk,
        exec_decrypting_illegal (.inr rfl) hk⟩

/-- Settles O50: the access changes fields that the command leaves alone until its completion. -/
theorem runningCommandIsShielded : Obligations.RunningCommandIsShielded := by
  intro s s' e rest i hb he hs hstep
  rw [step_of_schedule_cons hs] at hstep
  obtain ⟨st, c, q, rfl⟩ := takeEvent_access_busy_hostFields (s := { s with schedule := rest }) hb he hstep
  obtain ⟨u, code, hexec, hexec'⟩ := exec_withHostFields i s st c rest q
  exact ⟨_, _, hexec, hexec', rfl, rfl, rfl, rfl, rfl, rfl, rfl, rfl, rfl⟩

end Sys2Proof.Machine
end
